-- ==== Sys2Proof/Syntax.lean ====
section
/-! DEFINITION. The instruction set: the three commands of spec/opcode_table.json (spec/30_encoding.md R70, R72). -/

namespace Sys2Proof

/-- A command of the engine. Every operand is implicit (R71), so no constructor has an argument. -/
inductive Instr where
  /-- CONSTRUCT: run the key schedule (R131). -/
  | construct
  /-- ENCRYPT: run the block iterator with `EK` (R155). -/
  | encrypt
  /-- DECRYPT: run the block iterator with `DK` (R158). -/
  | decrypt
  deriving DecidableEq, Repr

end Sys2Proof
end

