-- ==== Sys2Proof/Word.lean ====
section
/-! DEFINITION. The words the engine moves: the byte and the block (spec/00_scope.md R7, R9). -/

namespace Sys2Proof

/-- An unsigned byte, `0..255` (R7). -/
abbrev Byte := BitVec 8

/-- A block: 16 bytes, held as the 128-bit number whose most significant byte is the leftmost one, so that `^^^` is
the block XOR of R170 (R7, R8, R50). -/
abbrev Block := BitVec 128

end Sys2Proof
end

