-- ==== Sys2Proof/Decode.lean ====
section
/-! DEFINITION. The decoder of command words, total on all 256 bytes, and the encoder (spec/30_encoding.md R70 to R75). -/

namespace Sys2Proof

/-- Why a command word names no command. -/
inductive DecodeError where
  /-- The code is 0x00 or 0x04..0xFF: reserved (R74). The write to `CMD` then raises IllegalCommand, a next state. -/
  | reservedCode (code : Byte)
  deriving DecidableEq, Repr

/-- Format `CMD8`: all eight bits are the command code (R70, R72); every other code is reserved (R74). -/
def decode (word : Byte) : Except DecodeError Instr :=
  if word = 0x01 then .ok .construct
  else if word = 0x02 then .ok .encrypt
  else if word = 0x03 then .ok .decrypt
  else .error (.reservedCode word)

/-- The command word of an instruction (the `op` column of R72). -/
def encode : Instr → Byte
  | .construct => 0x01
  | .encrypt => 0x02
  | .decrypt => 0x03

/-- The command word that lies in the `nbits` low bits of a word numbered as spec/opcode_table.json numbers it: the
longest instruction is one byte (R75), the bits above `nbits` are 0. -/
def tableWord (nbits w : Nat) : Byte := BitVec.ofNat 8 (w % 2 ^ nbits)

/-- The instruction the decoder reads from a table word, none where it refuses. -/
def decodeTableWord (nbits w : Nat) : Option Instr :=
  match decode (tableWord nbits w) with
  | .ok i => some i
  | .error _ => none

end Sys2Proof
end

