-- ==== Sys2Proof/Machine/Blocks.lean ====
section
/-! DEFINITION. Byte strings and blocks: byte order and bit order (spec/00_scope.md R7, R8; spec/20_memory.md R50). -/

namespace Sys2Proof.Machine

/-- Byte `k` (0 = leftmost) of a block: bits `8*(15-k)+7 .. 8*(15-k)` of the number (R7, R8, R50). -/
def byteOf (x : Block) (k : Nat) : Byte := x.extractLsb' (8 * (15 - k)) 8

/-- The concatenation `f 0 ‖ ... ‖ f (n-1)` as a number, the first byte the most significant. -/
def joinBytes (f : Nat → Byte) : Nat → Block
  | 0 => 0
  | n + 1 => (joinBytes f n <<< 8) ||| (f n).setWidth 128

/-- The block whose byte `k` is `f k` (R7). -/
def blockOf (f : Nat → Byte) : Block := joinBytes f 16

/-- The block of a byte string of length 16; a shorter string is padded with zero bytes on the right (R133 writes the
padding out; the engine forms no other length). -/
def blockOfString (x : List Byte) : Block := blockOf fun k => x.getD k 0

/-- A block as the byte string `x[0], ..., x[15]` (R7). -/
def stringOf (x : Block) : List Byte := (List.range 16).map (byteOf x)

/-- Bit position `p` of a block, read left to right: position 0 is the most significant bit of byte 0 (R8). -/
def bitAt (x : Block) (p : Nat) : Bool := (byteOf x (p / 8)).getLsbD (7 - p % 8)

/-- `int(x)`: a byte string as a big-endian number (R8). -/
def intOf (x : List Byte) : Nat := x.foldl (fun acc b => acc * 256 + b.toNat) 0

/-- The byte string of length `n` whose `int` is `v` (for `v < 256^n`). -/
def stringOfInt (n v : Nat) : List Byte := (List.range n).map fun i => BitVec.ofNat 8 (v / 256 ^ (n - 1 - i))

end Sys2Proof.Machine
end

