-- ==== Sys2Proof/Config.lean ====
section
/-! DEFINITION. What an implementation of the ARIA engine fixes (spec/00_scope.md R5, R6).

Everything the spec fixes for every implementation (ROM contents, index sets, round counts) stands with the
operation that reads it; the one parameter it leaves open is the width of `LEN`. -/

namespace Sys2Proof.Config

/-- `LENW`, the width in bits of the `LEN` register (R6, `92_eei_decisions.md` D14).
DESIGN CHOICE (log entry 1, unsafe for a claim that uses the number): the spec leaves it open and offers 16 as an
example of a fixed value. -/
abbrev lenW : Nat := 16

/-- `BUFSZ = 2^LENW`, the number of bytes of `IN` and of `OUT` (R6, R31). -/
abbrev bufSize : Nat := 2 ^ lenW

end Sys2Proof.Config
end

