-- ==== Sys2Proof/Machine/HostOp.lean ====
section
/-! DEFINITION. The operations the host performs on the engine's port (spec/30_encoding.md R76, R77). -/

namespace Sys2Proof.Machine

/-- One host operation of R76. An address of `IN` or `OUT` is a `LENW`-bit number, so every address exists (R55). -/
inductive HostOp where
  /-- `WR reg, v`: write a register by its number (R23); a write to `CMD` (34) issues a command (R28). -/
  | wr (reg value : Nat)
  /-- `RD reg`: read a register by its number. -/
  | rd (reg : Nat)
  /-- `WRI a, v`: write one byte of `IN`. -/
  | wri (addr : BitVec Config.lenW) (value : Byte)
  /-- `RDI a`: read one byte of `IN`. -/
  | rdi (addr : BitVec Config.lenW)
  /-- `RDO a`: read one byte of `OUT`. -/
  | rdo (addr : BitVec Config.lenW)
  /-- `WRI a, (RDO a)`: the nested form R77 uses in `OUT2IN`: the value read is the value written. -/
  | wriRdo (addr : BitVec Config.lenW)
  deriving DecidableEq, Repr

end Sys2Proof.Machine
end

