-- ==== Sys2Proof/Machine/State.lean ====
section
/-! DEFINITION. The state of the engine and its host port, the reasons a step can stop, and reset
(spec/10_state.md R20 to R38, spec/70_reset_and_hazards.md R200). -/

namespace Sys2Proof.Machine

/-- A byte memory (`IN`, `OUT`): the bytes that differ from what an unlisted address reads as, by rising address
(R31; the canonical form is `Memory.wf` in Machine/Ops.lean). -/
abbrev Memory := List Host.Cell

/-- A round-key register file `EK[0..16]` or `DK[0..16]`, seventeen blocks (R29). -/
abbrev KeyFile := Vector Block 17

/-- The error kinds of R181; their codes are `ErrorKind.code` in Machine/Flags.lean. -/
inductive ErrorKind where
  /-- Raised by CONSTRUCT when `KEYLEN` is not 16, 24 or 32. -/
  | invalidKeyLength
  /-- Raised by ENCRYPT and DECRYPT when the length check of R156 fails. -/
  | invalidInputLength
  /-- Raised by nothing (R183): the operand of the diffusion layer is a block by its type. -/
  | internalInvariantViolation
  /-- Raised by ENCRYPT and DECRYPT when `VALID = 0`. -/
  | noInstance
  /-- Raised by a write of a reserved code to `CMD` (R74). -/
  | illegalCommand
  deriving DecidableEq, Repr

/-- Why the machine would stop. No step of this model ends in a fault: every error of R181 is a next state. -/
inductive Fault where
  /-- R183: "a fatal assertion", a fault of the model itself, never final. Raised by nobody: a diffusion operand is a
  `Block` by its type (R113), so the run-time check it belongs to cannot be written. Safe. -/
  | internalInvariantViolation
  deriving DecidableEq, Repr

/-- Why an instruction would have no meaning. -/
inductive Refusal where
  /-- An instruction of the opcode table without a meaning. Raised by nobody: all three have one. Safe. -/
  | notModelled (mnemonic : String)
  deriving DecidableEq, Repr

/-- The whole state of R20, and the host's side of the port: the operations it has still to perform and the values it
has read (log entry 2). The ROM, `LENW` and the transient values of a command are not state (R35, R36). -/
structure State where
  /-- `KEY[0..31]`, numbers 0..31 (R21). -/
  key : Vector Byte 32
  /-- `KEYLEN`, number 32 (R24). -/
  keyLen : Byte
  /-- `LEN`, number 33, `LENW` bits (R27). -/
  len : BitVec Config.lenW
  /-- `IN[0..BUFSZ-1]` (R31). -/
  inBuf : Memory
  /-- `OUT[0..BUFSZ-1]` (R31). -/
  outBuf : Memory
  /-- `STATUS.VALID`, bit 0 of number 35 (R25). -/
  valid : Bool
  /-- `STATUS.ERR`, bits 3:1 of number 35 (R25). -/
  err : BitVec 3
  /-- `ROUNDS`, number 36 (R26). -/
  rounds : Byte
  /-- `KLEN`, number 37 (R26). -/
  kLen : Byte
  /-- `EK[0..16]` (R29). -/
  ek : KeyFile
  /-- `DK[0..16]` (R29). -/
  dk : KeyFile
  /-- The model's own: the host operations not yet performed, the next one first (R76, R205; log entry 2). -/
  pending : List HostOp
  /-- The model's own: the values host reads have returned, the latest first (R76; log entry 2). -/
  returned : List Nat
  deriving DecidableEq, Repr

/-- Reset (R37, R200): `VALID` and `ERR` are 0. The spec calls every other element unspecified; the model names zero for
each (DESIGN CHOICE, log entries 3 and 4, unsafe). No host program is placed. -/
def State.reset : State where
  key := Vector.replicate 32 0
  keyLen := 0
  len := 0
  inBuf := []
  outBuf := []
  valid := false
  err := 0
  rounds := 0
  kLen := 0
  ek := Vector.replicate 17 0
  dk := Vector.replicate 17 0
  pending := []
  returned := []

end Sys2Proof.Machine
end

