-- ==== Sys2Proof/Machine/Flags.lean ====
section
/-! DEFINITION. The two status elements and the `STATUS` register (spec/10_state.md R25, R34; spec/60_exceptions.md
R181). The engine has no arithmetic condition codes. -/

namespace Sys2Proof.Machine

/-- The `ERR` code of an error kind (R181). Codes 0, 6 and 7 belong to no kind. -/
def ErrorKind.code : ErrorKind → BitVec 3
  | .invalidKeyLength => 1
  | .invalidInputLength => 2
  | .internalInvariantViolation => 3
  | .noInstance => 4
  | .illegalCommand => 5

/-- `STATUS` as the host reads it: bits 7:4 read 0, bits 3:1 are `ERR`, bit 0 is `VALID` (R25). -/
def State.status (s : State) : Byte := 0#4 ++ s.err ++ BitVec.ofBool s.valid

/-- `ERR <- e`. -/
def State.setErr (s : State) (e : BitVec 3) : State := { s with err := e }

/-- `VALID <- b`. -/
def State.setValid (s : State) (b : Bool) : State := { s with valid := b }

end Sys2Proof.Machine
end

