-- ==== Sys2Proof/Machine/Ops.lean ====
section
/-! DEFINITION. The named operations over memory and registers, and raising an error
(spec/00_scope.md R10, spec/20_memory.md R50 to R56, spec/60_exceptions.md R184, R185). -/

namespace Sys2Proof.Machine

/-- What an address that a memory does not list reads as. The spec leaves a byte nothing has written unspecified (R37);
the model reads zero (DESIGN CHOICE, log entry 4, unsafe). -/
def Memory.unwritten : Byte := 0

/-- The canonical form: addresses strictly rising and below `BUFSZ`, no entry that reads as an unlisted address does. -/
abbrev Memory.wf (m : Memory) : Prop :=
  m.Pairwise (fun c d => c.1 < d.1) ∧ ∀ c ∈ m, c.1 < Config.bufSize ∧ c.2 ≠ Memory.unwritten

/-- Read one byte (R31). -/
def Memory.read : Memory → Nat → Byte
  | [], _ => Memory.unwritten
  | (b, w) :: m, a => if a = b then w else Memory.read m a

/-- Write one byte, keeping the canonical form (R31). -/
def Memory.write : Memory → Nat → Byte → Memory
  | [], a, v => if v = Memory.unwritten then [] else [(a, v)]
  | (b, w) :: m, a, v =>
    if a < b then (if v = Memory.unwritten then (b, w) :: m else (a, v) :: (b, w) :: m)
    else if a = b then (if v = Memory.unwritten then m else (a, v) :: m)
    else (b, w) :: Memory.write m a v

/-- `MemRead(S, a, 16)`: the block at addresses `a .. a+15`, lowest address first (R10, R50). -/
def Memory.readBlock (m : Memory) (a : Nat) : Block := blockOf fun k => Memory.read m (a + k)

/-- `f 0 .. f (n-1)` written to addresses `a .. a+n-1`. -/
def Memory.writeBytes (m : Memory) (a : Nat) (f : Nat → Byte) : Nat → Memory
  | 0 => m
  | n + 1 => Memory.write (Memory.writeBytes m a f n) (a + n) (f n)

/-- `MemWrite(S, a, 16, v)`: byte `k` of the block to address `a+k` (R10, R50). -/
def Memory.writeBlock (m : Memory) (a : Nat) (v : Block) : Memory := Memory.writeBytes m a (byteOf v) 16

/-- Entry `i` of a round-key file (R29). Indices above 16 name no entry and no rule reads one; the model answers zero
there (log entry 5). -/
def KeyFile.entry (file : KeyFile) (i : Nat) : Block := if h : i < 17 then file[i] else 0

/-- `file[i] <- f i` for `i < n`, the other entries kept (R29, R131). -/
def KeyFile.writeFirst (file : KeyFile) (f : Nat → Block) : Nat → KeyFile
  | 0 => file
  | n + 1 => (KeyFile.writeFirst file f n).setIfInBounds n (f n)

/-- `KEY[i] <- v` (R21). -/
def State.setKey (s : State) (i : Fin 32) (v : Byte) : State := { s with key := s.key.set i v }

/-- `KEYLEN <- v` (R24). -/
def State.setKeyLen (s : State) (v : Byte) : State := { s with keyLen := v }

/-- `LEN <- v` (R27). -/
def State.setLen (s : State) (v : BitVec Config.lenW) : State := { s with len := v }

/-- `IN[a] <- v` (R31, R76). -/
def State.setIn (s : State) (a : Nat) (v : Byte) : State := { s with inBuf := Memory.write s.inBuf a v }

/-- The contents of `OUT` after a command (R31). -/
def State.setOutBuf (s : State) (m : Memory) : State := { s with outBuf := m }

/-- The instance registers after a CONSTRUCT that succeeds: `EK`, `DK`, `ROUNDS`, `KLEN` and `VALID = 1` (R26, R29). -/
def State.install (s : State) (ek dk : KeyFile) (rounds kLen : Byte) : State :=
  { s with ek := ek, dk := dk, rounds := rounds, kLen := kLen, valid := true }

/-- The host operations still to be performed. -/
def State.setPending (s : State) (ops : List HostOp) : State := { s with pending := ops }

/-- A host read returned `v`. -/
def State.pushReturned (s : State) (v : Nat) : State := { s with returned := v :: s.returned }

/-- `raise E`, the whole effect of R184: `ERR <- code(E)`, and for InvalidKeyLength `VALID <- 0`; nothing is saved and no
control is transferred. There is no return (R185): the next command overwrites `ERR`. -/
def raise (e : ErrorKind) (s : State) : State :=
  match e with
  | .invalidKeyLength => (s.setValid false).setErr e.code
  | .invalidInputLength => s.setErr e.code
  | .internalInvariantViolation => s.setErr e.code
  | .noInstance => s.setErr e.code
  | .illegalCommand => s.setErr e.code

/-- The end of a command that succeeds: `ERR <- 0` (R25). -/
def succeed (s : State) : State := s.setErr 0

end Sys2Proof.Machine
end

