-- ==== Sys2Proof/Machine/Operands.lean ====
section
/-! DEFINITION. The operand forms: registers by number, and the implicit operands of the commands
(spec/10_state.md R23, spec/30_encoding.md R71, spec/45_block_driver.md R156). -/

namespace Sys2Proof.Machine

/-- The registers a host number names (R23). -/
inductive RegName where
  | key (i : Fin 32)
  | keyLen
  | len
  | cmd
  | status
  | rounds
  | kLen
  deriving DecidableEq, Repr

/-- The register a number names; numbers 38 and above name none (R23). -/
def regOfNumber (n : Nat) : Option RegName :=
  if h : n < 32 then some (.key ⟨n, h⟩)
  else if n = 32 then some .keyLen
  else if n = 33 then some .len
  else if n = 34 then some .cmd
  else if n = 35 then some .status
  else if n = 36 then some .rounds
  else if n = 37 then some .kLen
  else none

/-- The value a host read of a register number returns: 0 for `CMD` and for a number that names no register (R23). -/
def readReg (s : State) (n : Nat) : Nat :=
  match regOfNumber n with
  | some (.key i) => s.key[i].toNat
  | some .keyLen => s.keyLen.toNat
  | some .len => s.len.toNat
  | some .cmd => 0
  | some .status => s.status.toNat
  | some .rounds => s.rounds.toNat
  | some .kLen => s.kLen.toNat
  | none => 0

/-- The master key as the byte string `KEY[0..n-1]`, `KEY[0]` leftmost (R21, R71). -/
def masterKey (s : State) (n : Nat) : List Byte := s.key.toList.take n

/-- `CheckLength(LEN, KLEN)` passes: `LEN` is positive, a multiple of `KLEN` and a multiple of 16 (R156). -/
def lengthAccepted (len kLen : Nat) : Bool := !(len == 0 || len % kLen != 0 || len % 16 != 0)

end Sys2Proof.Machine
end

