-- ==== Sys2Proof/Machine/Diffusion.lean ====
section
/-! DEFINITION. The diffusion layer `A` (spec/42_diffusion_layer.md R110 to R113). Its operand is a block by type, so
InternalInvariantViolation cannot arise (R113, R183). -/

namespace Sys2Proof.Machine

/-- The index sets `IDX[0..15]` of R111: output byte `i` is the XOR of the input bytes at these seven positions. -/
def diffusionIndex : List (List Nat) :=
  [[3, 4, 6, 8, 9, 13, 14], [2, 5, 7, 8, 9, 12, 15], [1, 4, 6, 10, 11, 12, 15], [0, 5, 7, 10, 11, 13, 14]] ++
  [[0, 2, 5, 8, 11, 14, 15], [1, 3, 4, 9, 10, 14, 15], [0, 2, 7, 9, 10, 12, 13], [1, 3, 6, 8, 11, 12, 13]] ++
  [[0, 1, 4, 7, 10, 13, 15], [0, 1, 5, 6, 11, 12, 14], [2, 3, 5, 6, 8, 13, 15], [2, 3, 4, 7, 9, 12, 14]] ++
  [[1, 2, 6, 7, 9, 11, 12], [0, 3, 6, 7, 8, 10, 13], [0, 3, 4, 5, 9, 11, 14], [1, 2, 4, 5, 8, 10, 15]]

/-- The XOR of the bytes of `x` at the given positions. -/
def xorAt (x : Block) (positions : List Nat) : Byte := positions.foldr (fun j acc => byteOf x j ^^^ acc) 0

/-- `A`, the diffusion layer (R110). -/
def diffuse (x : Block) : Block := blockOf fun i => xorAt x (diffusionIndex.getD i [])

end Sys2Proof.Machine
end

