-- ==== Sys2Proof/Machine/RotationXor.lean ====
section
/-! DEFINITION. The rotation and XOR units, on blocks as the engine uses them and on byte strings of any length as the
spec defines them (spec/46_rotation_xor.md R170 to R174). -/

namespace Sys2Proof.Machine

/-- `XOR` of two blocks: the only form the engine uses (R170). -/
def xorBlock (x y : Block) : Block := x ^^^ y

/-- `ROL(x, n)` of a block, `n` reduced modulo 128 (R171 with `B = 128`). -/
def rol (x : Block) (n : Nat) : Block := x.rotateLeft n

/-- `ROR(x, n) = ROL(x, (B - (n mod B)) mod B)` (R172 with `B = 128`). -/
def ror (x : Block) (n : Nat) : Block := rol x ((128 - n % 128) % 128)

/-- `XOR(x, y)` of byte strings with `len(y) <= len(x)`; the bytes beyond `y` are copied from `x` (R170). None where `y`
is the longer one: the document gives that case no meaning (`92_eei_decisions.md` D27). -/
def xorString (x y : List Byte) : Option (List Byte) :=
  if y.length ≤ x.length then some ((List.range x.length).map fun i => x.getD i 0 ^^^ y.getD i 0) else none

/-- `ROL(x, n)` of a byte string of length `L >= 1` (R171): with `B = 8L` and `m = n mod B`, the number
`((int(x) * 2^m) mod 2^B) + (int(x) div 2^(B-m))`. None for the empty string (`92_eei_decisions.md` D29). -/
def rolString (x : List Byte) (n : Nat) : Option (List Byte) :=
  if x.length = 0 then none
  else
    let b := 8 * x.length
    let m := n % b
    some (stringOfInt x.length ((intOf x * 2 ^ m) % 2 ^ b + intOf x / 2 ^ (b - m)))

/-- `ROR(x, n)` of a byte string (R172). -/
def rorString (x : List Byte) (n : Nat) : Option (List Byte) :=
  rolString x ((8 * x.length - n % (8 * x.length)) % (8 * x.length))

/-- R171's rule byte by byte: with `q = m div 8` and `s = m mod 8`,
`z[i] = ((x[(i+q) mod L] * 2^s) mod 256) + (x[(i+q+1) mod L] div 2^(8-s))`. -/
def rolByte (x : List Byte) (n i : Nat) : Nat :=
  let m := n % (8 * x.length)
  let q := m / 8
  let s := m % 8
  ((x.getD ((i + q) % x.length) 0).toNat * 2 ^ s) % 256 + (x.getD ((i + q + 1) % x.length) 0).toNat / 2 ^ (8 - s)

end Sys2Proof.Machine
end

