-- ==== Sys2Proof/Machine/Rom.lean ====
section
/-! DEFINITION. The ROM: the four substitution tables and the three round constants (spec/40_constant_tables.md R90 to
R95). The values are the spec's; the spec marks them as general knowledge (`93_implementation_defined.md` G1, G2).

A table is its sixteen rows as the spec prints them: row `r` is the string of the entries `0x(r)0 .. 0x(r)F`. -/

namespace Sys2Proof.Machine

/-- Entry `v` of a table: column `v mod 16` of row `v div 16`, the index an unsigned byte (R90). -/
def romEntry (rows : List Block) (v : Byte) : Byte := byteOf (rows.getD (v.toNat / 16) 0) (v.toNat % 16)

/-- The rows of `SB1` (R91). -/
def sb1Rows : List Block :=
   [0x637c777bf26b6fc53001672bfed7ab76,
    0xca82c97dfa5947f0add4a2af9ca472c0,
    0xb7fd9326363ff7cc34a5e5f171d83115,
    0x04c723c31896059a071280e2eb27b275] ++
   [0x09832c1a1b6e5aa0523bd6b329e32f84,
    0x53d100ed20fcb15b6acbbe394a4c58cf,
    0xd0efaafb434d338545f9027f503c9fa8,
    0x51a3408f929d38f5bcb6da2110fff3d2] ++
   [0xcd0c13ec5f974417c4a77e3d645d1973,
    0x60814fdc222a908846eeb814de5e0bdb,
    0xe0323a0a4906245cc2d3ac629195e479,
    0xe7c8376d8dd54ea96c56f4ea657aae08] ++
   [0xba78252e1ca6b4c6e8dd741f4bbd8b8a,
    0x703eb5664803f60e613557b986c11d9e,
    0xe1f8981169d98e949b1e87e9ce5528df,
    0x8ca1890dbfe6426841992d0fb054bb16]

/-- The rows of `SB2` (R92). -/
def sb2Rows : List Block :=
   [0xe24e54fc94c24acc620d6a463c4d8bd1,
    0x5efa64cbb497be2bbc772e03d31959c1,
    0x1d06416b55f09969ea9c18ae63dfe7bb,
    0x007366fb964c85e43a0945aa0fee10eb] ++
   [0x2d7ff429accfad918d78c895f92fcecd,
    0x087a88385c832a2847dbb8c793a41253,
    0xff870e3136215848018e377432cae9b1,
    0xb7ab0cd7c4564226079860d9b6b91140] ++
   [0xec208cbda0c984044923f14f501f13dc,
    0xd8c09e57e3c37b653b028f3ee82592e5,
    0x15ddfd17a9bfd49a7ec53967fe769d43,
    0xa7e1d0f568f21b347005a38ad57986a8] ++
   [0x30c6514b1ea627f635d26e2416825fda,
    0xe675a2ef2cb21c9f5d6f800a72449b6c,
    0x900b5b337d5a52f361a1f7b0d63f7c6d,
    0xed14e0a53d22b3f889de711aafbab581]

/-- The rows of `SB3` (R93). -/
def sb3Rows : List Block :=
   [0x52096ad53036a538bf40a39e81f3d7fb,
    0x7ce339829b2fff87348e4344c4dee9cb,
    0x547b9432a6c2233dee4c950b42fac34e,
    0x082ea16628d924b2765ba2496d8bd125] ++
   [0x72f8f66486689816d4a45ccc5d65b692,
    0x6c704850fdedb9da5e154657a78d9d84,
    0x90d8ab008cbcd30af7e45805b8b34506,
    0xd02c1e8fca3f0f02c1afbd0301138a6b] ++
   [0x3a9111414f67dcea97f2cfcef0b4e673,
    0x96ac7422e7ad3585e2f937e81c75df6e,
    0x47f11a711d29c5896fb7620eaa18be1b,
    0xfc563e4bc6d279209adbc0fe78cd5af4] ++
   [0x1fdda8338807c731b11210592780ec5f,
    0x60517fa919b54a0d2de57a9f93c99cef,
    0xa0e03b4dae2af5b0c8ebbb3c83539961,
    0x172b047eba77d626e169146355210c7d]

/-- The rows of `SB4` (R94). -/
def sb4Rows : List Block :=
   [0x3068991b87b921785039dbe17209623c,
    0x3e7e5e8ef1a0cca32a1dfbb6d620c48d,
    0x8165f589cb9d77c657435617d4401a4d,
    0xc0636ce3b7c8646a53aa38980cf49bed] ++
   [0x7f2276afdd3a0b58678806c3350d018b,
    0x8cc2e65f02247593661ee5e254d810ce,
    0x7ae8082c129732abb4270a23dfefcad9,
    0xb8fadc316bd1ad1949bd5196eee4a841] ++
   [0xdaffcd558636be6152f8bb0e8248699a,
    0xe0479e5c044b34157926a7de29ae92d7,
    0x84e9d2ba5df3c5b0bfa43b7144462bfc,
    0xeb6fd5f614fe7c705a7dfd2f188316a5] ++
   [0x911f059574a9c15b4a856d13074f4e45,
    0xb20fc91ca6bcec73907bcf598fa1f92d,
    0xf2b10094379fd02e9c6e283f80f03dd3,
    0x258ab5e742b3c7eaf74c113303a2ac60]

/-- `SB1(v) = ROM.SB1[v]` (R91). -/
def sb1 (v : Byte) : Byte := romEntry sb1Rows v

/-- `SB2(v) = ROM.SB2[v]` (R92). -/
def sb2 (v : Byte) : Byte := romEntry sb2Rows v

/-- `SB3(v) = ROM.SB3[v]` (R93). -/
def sb3 (v : Byte) : Byte := romEntry sb3Rows v

/-- `SB4(v) = ROM.SB4[v]` (R94). -/
def sb4 (v : Byte) : Byte := romEntry sb4Rows v

/-- The round constant `C1` (R95). -/
def c1 : Block := 0x517cc1b727220a94fe13abe8fa9a6ee0

/-- The round constant `C2` (R95). -/
def c2 : Block := 0x6db14acc9e21c820ff28b1d5ef5de2b0

/-- The round constant `C3` (R95). -/
def c3 : Block := 0xdb92371d2126e9700324977504e8c90e

end Sys2Proof.Machine
end

