-- ==== Sys2Proof/Machine/Substitution.lean ====
section
/-! DEFINITION. The substitution layers (spec/41_substitution_layer.md R100 to R103). -/

namespace Sys2Proof.Machine

/-- The table `SL1` uses at position `i` (R100, R103). -/
def sl1Table (i : Nat) (v : Byte) : Byte :=
  match i % 4 with
  | 0 => sb1 v
  | 1 => sb2 v
  | 2 => sb3 v
  | _ => sb4 v

/-- The table `SL2` uses at position `i` (R101, R103). -/
def sl2Table (i : Nat) (v : Byte) : Byte :=
  match i % 4 with
  | 0 => sb3 v
  | 1 => sb4 v
  | 2 => sb1 v
  | _ => sb2 v

/-- `SL1`, the substitution layer Type 1 (R100). -/
def sl1 (x : Block) : Block := blockOf fun i => sl1Table i (byteOf x i)

/-- `SL2`, the substitution layer Type 2 (R101). -/
def sl2 (x : Block) : Block := blockOf fun i => sl2Table i (byteOf x i)

end Sys2Proof.Machine
end

