-- ==== Sys2Proof/Machine/RoundFunctions.lean ====
section
/-! DEFINITION. The round functions (spec/43_round_functions.md R120, R121). -/

namespace Sys2Proof.Machine

/-- `FO(D, RK) = A(SL1(XOR(D, RK)))`, the odd round function (R120). -/
def roundOdd (d rk : Block) : Block := diffuse (sl1 (xorBlock d rk))

/-- `FE(D, RK) = A(SL2(XOR(D, RK)))`, the even round function (R121). -/
def roundEven (d rk : Block) : Block := diffuse (sl2 (xorBlock d rk))

end Sys2Proof.Machine
end

