-- ==== Sys2Proof/Machine/BlockDriver.lean ====
section
/-! DEFINITION. The round function controller, the block iterator and the meanings of ENCRYPT and DECRYPT, with the
refinement of a command into steps (spec/45_block_driver.md R150 to R160). -/

namespace Sys2Proof.Machine

/-- The full round at round index `j`: `FO` at even `j`, `FE` at odd `j` (R151; `90_conflicts.md` C2). -/
def roundAt (j : Nat) (s rk : Block) : Block := if j % 2 = 0 then roundOdd s rk else roundEven s rk

/-- The block state after the first `n` full rounds, round index `0 .. n-1` with `K[0..n-1]` (R150, R151). -/
def afterRounds (file : KeyFile) (p : Block) : Nat → Block
  | 0 => p
  | n + 1 => roundAt n (afterRounds file p n) (file.entry n)

/-- `Final(S, K, R) = XOR(SL2(XOR(S, K[R-1])), K[R])`: no diffusion layer, two keys (R153). -/
def finalRound (s : Block) (file : KeyFile) (rounds : Nat) : Block :=
  xorBlock (sl2 (xorBlock s (file.entry (rounds - 1)))) (file.entry rounds)

/-- `Crypt(P, K, R)`: `R-1` full rounds and the final round (R150). -/
def crypt (p : Block) (file : KeyFile) (rounds : Nat) : Block := finalRound (afterRounds file p (rounds - 1)) file rounds

/-- The block iterator: blocks `0 .. n-1` of `IN`, each through `Crypt` to the same addresses of `OUT` (R157). -/
def cryptBlocks (input : Memory) (file : KeyFile) (rounds : Nat) (out : Memory) : Nat → Memory
  | 0 => out
  | n + 1 =>
    Memory.writeBlock (cryptBlocks input file rounds out n) (16 * n)
      (crypt (Memory.readBlock input (16 * n)) file rounds)

/-- The body ENCRYPT and DECRYPT share (R155, R158): NoInstance first, then the length check (R186), then the blocks. -/
def cryptCommand (file : KeyFile) (s : State) : Host.Outcome State Fault Refusal :=
  if s.valid = false then .next (raise .noInstance s)
  else if lengthAccepted s.len.toNat s.kLen.toNat = false then .next (raise .invalidInputLength s)
  else .next (succeed (s.setOutBuf (cryptBlocks s.inBuf file s.rounds.toNat s.outBuf (s.len.toNat / 16))))

/-- ENCRYPT (R155). -/
def execEncrypt (s : State) : Host.Outcome State Fault Refusal := cryptCommand s.ek s

/-- DECRYPT (R158). -/
def execDecrypt (s : State) : Host.Outcome State Fault Refusal := cryptCommand s.dk s

/-- The transient state `(i, j, S)` of R160, with `OUT` as it is being written. No host sees it (R12). -/
structure IterState where
  i : Nat
  j : Nat
  blk : Block
  out : Memory
  deriving DecidableEq, Repr

/-- The start of the blocks, after the checks: `i = 0`, `j = 0`, `S = MemRead(IN, 0, 16)` (R160). -/
def iterStart (input out : Memory) : IterState := ⟨0, 0, Memory.readBlock input 0, out⟩

/-- One step of R160 for a command over `n` blocks. The spec ends the command at `i = n` and says nothing of the transient
state from there on (R35, R52, R160). The model's choice (DESIGN CHOICE, log entry 11, safe): the step that writes the last
block leaves `j = 0` and in `S` the bytes of `IN` from `16*n`, which nothing uses; at `i = n` nothing moves. -/
def iterStep (input : Memory) (file : KeyFile) (rounds n : Nat) (t : IterState) : IterState :=
  if t.i = n then t
  else if t.j + 2 ≤ rounds then { t with j := t.j + 1, blk := roundAt t.j t.blk (file.entry t.j) }
  else
    { i := t.i + 1, j := 0
      blk := Memory.readBlock input (16 * (t.i + 1))
      out := Memory.writeBlock t.out (16 * t.i) (finalRound t.blk file rounds) }

/-- `k` steps of R160. -/
def iterRun (input : Memory) (file : KeyFile) (rounds n : Nat) : Nat → IterState → IterState
  | 0, t => t
  | k + 1, t => iterRun input file rounds n k (iterStep input file rounds n t)

end Sys2Proof.Machine
end

