-- ==== Sys2Proof/Machine/KeySchedule.lean ====
section
/-! DEFINITION. The key schedule engine: `KeyExpand` and the meaning of CONSTRUCT (spec/44_key_schedule.md R130 to
R141). -/

namespace Sys2Proof.Machine

/-- What the key length selects (R132). -/
structure KeyParams where
  rounds : Nat
  ck1 : Block
  ck2 : Block
  ck3 : Block
  deriving DecidableEq, Repr

/-- Step 1: the round count and the order of the round constants, none for an illegal length (R131, R132). -/
def selectByLength (n : Nat) : Option KeyParams :=
  if n = 16 then some ⟨12, c1, c2, c3⟩
  else if n = 24 then some ⟨14, c2, c3, c1⟩
  else if n = 32 then some ⟨16, c3, c1, c2⟩
  else none

/-- Step 2, left half: `KL = key[0..15]` (R133). -/
def keyLeft (key : List Byte) : Block := blockOfString (key.take 16)

/-- Step 2, right half: `KR = key[16..n-1] ‖ 0^(32-n)` (R133, every key byte takes part). -/
def keyRight (key : List Byte) : Block := blockOfString (key.drop 16 ++ List.replicate (32 - key.length) 0)

/-- The four values of the Feistel computation (R134). -/
structure FeistelWords where
  w0 : Block
  w1 : Block
  w2 : Block
  w3 : Block
  deriving DecidableEq, Repr

/-- Step 3, the 3-round 256-bit Feistel computation (R134). -/
def feistel (p : KeyParams) (kl kr : Block) : FeistelWords :=
  let w0 := kl
  let w1 := xorBlock (roundOdd w0 p.ck1) kr
  let w2 := xorBlock (roundEven w1 p.ck2) w0
  let w3 := xorBlock (roundOdd w2 p.ck3) w1
  ⟨w0, w1, w2, w3⟩

/-- Step 4: the candidates `ek1 .. ek17` in order (R135). -/
def candidates (w : FeistelWords) : List Block :=
  [xorBlock w.w0 (ror w.w1 19), xorBlock w.w1 (ror w.w2 19), xorBlock w.w2 (ror w.w3 19), xorBlock (ror w.w0 19) w.w3] ++
  [xorBlock w.w0 (ror w.w1 31), xorBlock w.w1 (ror w.w2 31), xorBlock w.w2 (ror w.w3 31), xorBlock (ror w.w0 31) w.w3] ++
  [xorBlock w.w0 (rol w.w1 61), xorBlock w.w1 (rol w.w2 61), xorBlock w.w2 (rol w.w3 61), xorBlock (rol w.w0 61) w.w3] ++
  [xorBlock w.w0 (rol w.w1 31), xorBlock w.w1 (rol w.w2 31), xorBlock w.w2 (rol w.w3 31), xorBlock (rol w.w0 31) w.w3] ++
  [xorBlock w.w0 (rol w.w1 19)]

/-- `ek_k` for `k = 1..17` (R135). -/
def candidate (w : FeistelWords) (k : Nat) : Block := (candidates w).getD (k - 1) 0

/-- The `W` values of a key of a legal length (R133, R134). -/
def keyWords (p : KeyParams) (key : List Byte) : FeistelWords := feistel p (keyLeft key) (keyRight key)

/-- `EK[i] = ek(i+1)` (R138). -/
def encKey (w : FeistelWords) (i : Nat) : Block := candidate w (i + 1)

/-- Step 5: `DK[0] = EK[R]`, `DK[R] = EK[0]`, and `DK[i] = A(EK[R-i])` for `1 <= i <= R-1` (R139). -/
def decKey (w : FeistelWords) (rounds i : Nat) : Block :=
  if i = 0 then encKey w rounds
  else if i = rounds then encKey w 0
  else diffuse (encKey w (rounds - i))

/-- CONSTRUCT (R131): raises InvalidKeyLength unless `KEYLEN` is 16, 24 or 32; else writes `EK[0..R]` and `DK[0..R]`
(the entries above keep what they held), `ROUNDS`, `KLEN`, `VALID = 1` and `ERR = 0`. -/
def execConstruct (s : State) : Host.Outcome State Fault Refusal :=
  match selectByLength s.keyLen.toNat with
  | none => .next (raise .invalidKeyLength s)
  | some p =>
    let w := keyWords p (masterKey s s.keyLen.toNat)
    .next (succeed (s.install
      (KeyFile.writeFirst s.ek (encKey w) (p.rounds + 1))
      (KeyFile.writeFirst s.dk (decKey w p.rounds) (p.rounds + 1))
      (BitVec.ofNat 8 p.rounds) s.keyLen))

end Sys2Proof.Machine
end

