-- ==== Sys2Proof/Machine/HostPort.lean ====
section
/-! DEFINITION. The host port: what each host operation does, how a command write runs a command, and the expansions of
the pseudo-operations (spec/10_state.md R23, R28; spec/30_encoding.md R74, R76, R77). -/

namespace Sys2Proof.Machine

/-- A host write of `c` to `CMD`: the command `c` encodes, atomically (R28); a reserved code raises IllegalCommand
(R74). The code is not kept (R60). -/
def issue (c : Byte) (s : State) : Host.Outcome State Fault Refusal :=
  match decode c with
  | .ok i => exec i s
  | .error _ => .next (raise .illegalCommand s)

/-- `WR reg, v`: a value wider than its register keeps its low bits (DESIGN CHOICE, log entry 6: the port carries as
many bits as the register has); a write to a read-only register or to a number above 37 is ignored (R23, R76). -/
def writeReg (n v : Nat) (s : State) : Host.Outcome State Fault Refusal :=
  match regOfNumber n with
  | some (.key i) => .next (s.setKey i (BitVec.ofNat 8 v))
  | some .keyLen => .next (s.setKeyLen (BitVec.ofNat 8 v))
  | some .len => .next (s.setLen (BitVec.ofNat Config.lenW v))
  | some .cmd => issue (BitVec.ofNat 8 v) s
  | some .status => .next s
  | some .rounds => .next s
  | some .kLen => .next s
  | none => .next s

/-- One host operation (R76). A read changes nothing in the engine (R53); the value it returns goes to the host. -/
def perform (op : HostOp) (s : State) : Host.Outcome State Fault Refusal :=
  match op with
  | .wr n v => writeReg n v s
  | .rd n => .next (s.pushReturned (readReg s n))
  | .wri a v => .next (s.setIn a.toNat v)
  | .rdi a => .next (s.pushReturned (Memory.read s.inBuf a.toNat).toNat)
  | .rdo a => .next (s.pushReturned (Memory.read s.outBuf a.toNat).toNat)
  | .wriRdo a =>
    let v := Memory.read s.outBuf a.toNat
    .next ((s.pushReturned v.toNat).setIn a.toNat v)

/-- The next host operation is performed; an engine whose host has none left is idle (R195, R205). -/
def performNext (s : State) : Host.Outcome State Fault Refusal :=
  match s.pending with
  | [] => .next s
  | op :: rest => perform op (s.setPending rest)

/-- `CMD <mnemonic>`, that is `WR CMD, <code>` (R77). -/
def cmdOp (i : Instr) : HostOp := .wr 34 (encode i).toNat

/-- `LOADKEY <n bytes>`: `WR KEY[0], b0 ... WR KEY[n-1], b(n-1)` then `WR KEYLEN, n` (R77); none for `n > 32`. -/
def loadKey (bytes : List Byte) : Option (List HostOp) :=
  if bytes.length ≤ 32 then
    some ((List.range bytes.length).map (fun i => .wr i (bytes.getD i 0).toNat) ++ [.wr 32 bytes.length])
  else none

/-- `LOADIN <n bytes>`: `WRI 0, b0 ... WRI n-1, b(n-1)` then `WR LEN, n` (R77); none where `n` does not fit `LEN`. -/
def loadIn (bytes : List Byte) : Option (List HostOp) :=
  if bytes.length < Config.bufSize then
    some ((List.range bytes.length).map (fun a => .wri (BitVec.ofNat Config.lenW a) (bytes.getD a 0)) ++
      [.wr 33 bytes.length])
  else none

/-- `OUT2IN n`: for `a = 0..n-1`: `WRI a, (RDO a)`; then `WR LEN, n` (R77); none where `n` does not fit `LEN`. -/
def out2In (n : Nat) : Option (List HostOp) :=
  if n < Config.bufSize then
    some ((List.range n).map (fun a => .wriRdo (BitVec.ofNat Config.lenW a)) ++ [.wr 33 n])
  else none

/-- A state with a host program placed: the operations its next steps perform (R205; log entry 2). -/
def State.withProgram (s : State) (ops : List HostOp) : State := s.setPending ops

end Sys2Proof.Machine
end

