-- ==== Sys2Proof/Machine/Step.lean ====
section
/-! DEFINITION. One step of the machine: one host operation (spec/00_scope.md R12, spec/30_encoding.md R76). -/

namespace Sys2Proof.Machine

/-- One step: the next host operation, a command write being one atomic transition (R12, R28). -/
def step (s : State) : Host.Outcome State Fault Refusal := performNext s

/-- The state whose next step performs the host write of the table word to `CMD`, and nothing else changed. The engine
has no program counter (R33): an instruction reaches it as the value of a command write (log entry 2). -/
def State.withFetchWord (s : State) (nbits w : Nat) : State :=
  s.setPending (.wr 34 (tableWord nbits w).toNat :: s.pending)

end Sys2Proof.Machine
end

