-- ==== Sys2Proof/Safety.lean ====
section
/-! DEFINITION. What claims about runs are stated in: the states a reset may leave, the invariant of the engine, and the
states a run reaches (spec/10_state.md R30, R37; spec/60_exceptions.md R181; spec/70_reset_and_hazards.md R200, R205). -/

namespace Sys2Proof.Machine

/-- The states reset may leave (R37, R200): `VALID` and `ERR` are 0 and EVERY other element holds any value, so a claim
from `afterReset` does not rest on the values `State.reset` names. The memories are in the model's canonical form. -/
abbrev State.afterReset (s : State) : Prop :=
  s.valid = false ∧ s.err = 0 ∧ Memory.wf s.inBuf ∧ Memory.wf s.outBuf

/-- Both memories are in canonical form. -/
abbrev State.memoryInv (s : State) : Prop := Memory.wf s.inBuf ∧ Memory.wf s.outBuf

/-- `STATUS` is one of the values a command outcome leaves (`95_test_vectors.md` section 3.9; R25, R181, R184). -/
abbrev State.statusInv (s : State) : Prop :=
  s.status ∈ [0x00#8, 0x01#8, 0x02#8, 0x05#8, 0x08#8, 0x0a#8, 0x0b#8]

/-- The instance invariants (a) to (d) of R30, which hold while `VALID = 1`. -/
abbrev State.instanceInv (s : State) : Prop :=
  s.valid = true →
    (s.kLen, s.rounds) ∈ [(16#8, 12#8), (24#8, 14#8), (32#8, 16#8)] ∧
    s.dk.entry 0 = s.ek.entry s.rounds.toNat ∧
    s.dk.entry s.rounds.toNat = s.ek.entry 0 ∧
    ∀ i < s.rounds.toNat, 0 < i → s.dk.entry i = diffuse (s.ek.entry (s.rounds.toNat - i))

/-- The invariant every step keeps. -/
abbrev State.Inv (s : State) : Prop := s.memoryInv ∧ s.statusInv ∧ s.instanceInv

/-- While an instance exists, `Crypt` with `DK` and `Crypt` with `EK` undo each other on every block (R154). -/
def State.decryptionInv (s : State) : Prop :=
  s.valid = true → ∀ p : Block,
    crypt (crypt p s.ek s.rounds.toNat) s.dk s.rounds.toNat = p ∧
    crypt (crypt p s.dk s.rounds.toNat) s.ek s.rounds.toNat = p

/-- The states of the runs of R205: from any state reset may leave, with any host program placed, by any number of
steps. -/
inductive Reachable : State → Prop where
  | afterReset (s : State) (h : s.afterReset) : Reachable s
  | step (s t : State) (h : Reachable s) (hs : step s = .next t) : Reachable t

end Sys2Proof.Machine
end

