-- ==== Sys2Proof/Certificates/Slice0/Obligations.lean ====
section
/-! DEFINITION. The statements made of the engine, each citing the rule of spec/ it formalises. -/

open Sys2Proof Sys2Proof.Machine

/-! ## Encoding and stepping -/

/-- R72: the three codes, all eight bits read, every other code reserved. -/
def Obligations.CommandCodesDecodeAsTabled : Prop :=
  decode 0b00000001 = .ok .construct ∧ decode 0b00000010 = .ok .encrypt ∧ decode 0b00000011 = .ok .decrypt ∧
    ∀ c : Byte, c ≠ 0x01 → c ≠ 0x02 → c ≠ 0x03 → decode c = .error (.reservedCode c)

/-- Decoding the command word of an instruction gives it back, and each word that decodes is that instruction's word.
-/
def Obligations.DecodeInvertsEncode : Prop :=
  (∀ i : Instr, decode (encode i) = .ok i) ∧ ∀ (c : Byte) (i : Instr), decode c = .ok i → encode i = c

/-- R28: a step whose next host operation writes a command's code to `CMD` is that command's `exec`, the operation
taken off the host's list; and `withFetchWord` is such a write. The host's list is the model's own choice (log entry
2); that a value of 256 or more written to `CMD` runs the command of its low eight bits is the model's choice too (log
entry 6). -/
def Obligations.StepRunsDecodedCommand : Prop :=
  (∀ (s : State) (v : Nat) (rest : List HostOp) (i : Instr), s.pending = .wr 34 v :: rest →
    decode (BitVec.ofNat 8 v) = .ok i → step s = exec i { s with pending := rest }) ∧
  ∀ (s : State) (w : Nat) (i : Instr), decodeTableWord 8 w = some i → step (s.withFetchWord 8 w) = exec i s

/-- R74: a write of 0x00 or of 0x04..0xFF to `CMD` sets `ERR` to 5 and changes nothing else of the engine
(the host's list is the model's own, log entry 2). -/
def Obligations.ReservedCodeRaisesIllegalCommand : Prop :=
  ∀ (s : State) (v : Nat) (rest : List HostOp), s.pending = .wr 34 v :: rest → (v = 0 ∨ 4 ≤ v ∧ v ≤ 0xff) →
    step s = .next { s with pending := rest, err := 5 }

/-- THE MODEL'S CHOICE (log entry 2): with no host operation left a step exists and changes nothing. R205 says only
that the engine is quiescent whenever no command write is in progress. -/
def Obligations.IdleEngineKeepsState : Prop := ∀ s : State, s.pending = [] → step s = .next s

/-- Every step answers a next state: no host operation and no command ends in a fault or a refusal (R183, R193). Two
parts of the first clause are the model's choice: that a step exists with no host operation left (log entry 2), and
that a write wider than its register is performed with its low bits (log entry 6). -/
def Obligations.EveryStepCompletes : Prop :=
  (∀ s : State, ∃ t, step s = .next t) ∧ ∀ (i : Instr) (s : State), ∃ t, exec i s = .next t

/-! ## The host port -/

/-- R76: what each host operation does. A write's value fits the register it names; a read returns 0 for `CMD` and for
a number above 37. The host's two lists are the model's own (log entry 2), and so is the last clause, which is not in
R76's table: the nested form of R77 is one host operation, which also records the value read. -/
def Obligations.HostOperationsActAsTabled : Prop :=
  ∀ (s : State) (rest : List HostOp),
    (∀ (n v : Nat) (h : n < 32), v < 256 →
      step { s with pending := .wr n v :: rest } =
        .next { s with pending := rest, key := s.key.set n (BitVec.ofNat 8 v) }) ∧
    (∀ v : Nat, v < 256 → step { s with pending := .wr 32 v :: rest } =
      .next { s with pending := rest, keyLen := BitVec.ofNat 8 v }) ∧
    (∀ v : Nat, v < 2 ^ Config.lenW → step { s with pending := .wr 33 v :: rest } =
      .next { s with pending := rest, len := BitVec.ofNat Config.lenW v }) ∧
    (∀ v : Nat, v < 256 → step { s with pending := .wr 34 v :: rest } =
      match decode (BitVec.ofNat 8 v) with
      | .ok i => exec i { s with pending := rest }
      | .error _ => .next { s with pending := rest, err := 5 }) ∧
    (∀ n v : Nat, 34 < n → step { s with pending := .wr n v :: rest } = .next { s with pending := rest }) ∧
    (∀ n : Nat, step { s with pending := .rd n :: rest } =
      .next { s with pending := rest, returned := readReg s n :: s.returned }) ∧
    (readReg s 34 = 0 ∧ ∀ n : Nat, 37 < n → readReg s n = 0) ∧
    (∀ (a : BitVec Config.lenW) (v : Byte), step { s with pending := .wri a v :: rest } =
      .next { s with pending := rest, inBuf := Memory.write s.inBuf a.toNat v }) ∧
    (∀ a : BitVec Config.lenW, step { s with pending := .rdi a :: rest } =
      .next { s with pending := rest, returned := (Memory.read s.inBuf a.toNat).toNat :: s.returned }) ∧
    (∀ a : BitVec Config.lenW, step { s with pending := .rdo a :: rest } =
      .next { s with pending := rest, returned := (Memory.read s.outBuf a.toNat).toNat :: s.returned }) ∧
    (∀ a : BitVec Config.lenW, step { s with pending := .wriRdo a :: rest } =
      .next { s with pending := rest, returned := (Memory.read s.outBuf a.toNat).toNat :: s.returned
                     inBuf := Memory.write s.inBuf a.toNat (Memory.read s.outBuf a.toNat) })

/-- R23: the value a read of each register number returns; `CMD` and the numbers above 37 return 0. -/
def Obligations.RegisterNumbersReadAsTabled : Prop :=
  ∀ s : State, (∀ (n : Nat) (h : n < 32), readReg s n = (s.key[n]).toNat) ∧ readReg s 32 = s.keyLen.toNat ∧
    readReg s 33 = s.len.toNat ∧ readReg s 34 = 0 ∧ readReg s 35 = s.status.toNat ∧ readReg s 36 = s.rounds.toNat ∧
    readReg s 37 = s.kLen.toNat ∧ ∀ n : Nat, 37 < n → readReg s n = 0

/-- R25: bit 0 of `STATUS` is `VALID`, bits 3:1 are `ERR`, bits 7:4 read 0. -/
def Obligations.StatusByteHoldsValidAndErr : Prop :=
  ∀ s : State, s.status.getLsbD 0 = s.valid ∧ s.status.extractLsb' 1 3 = s.err ∧ s.status.extractLsb' 4 4 = 0 ∧
    s.status.toNat = s.valid.toNat + 2 * s.err.toNat

/-- R57: a host read of `IN` returns the latest value written at that address, in a state whose `IN` is canonical (log
entry 4; that every step keeps it so is EveryStepKeepsInvariant). -/
def Obligations.InputReadsReturnLatestWrite : Prop :=
  ∀ (s : State) (a b : BitVec Config.lenW) (v : Byte) (rest : List HostOp) (t u : State), Memory.wf s.inBuf →
    s.pending = .wri a v :: .rdi b :: rest → step s = .next t → step t = .next u →
    u.returned = (if b = a then v else Memory.read s.inBuf b.toNat).toNat :: s.returned

/-- R25, R34: no command reads `ERR`, and every command write overwrites it: the outcome is the same whatever it held.
-/
def Obligations.EveryCommandWriteOverwritesErr : Prop :=
  ∀ (c : Byte) (s : State) (e : BitVec 3), issue c { s with err := e } = issue c s

/-- R38, as the spec derives it from R20, R131, R155 and R184: the writers of each state element, and that a command
that raises an error writes `ERR` and, for CONSTRUCT only, `VALID`, and nothing else. `OUT` is canonical by the
invariant (EveryStepKeepsInvariant). A `CMD` write of 256 or more counts as its low eight bits (the model's choice, log
entry 6). -/
def Obligations.OnlyTabledWritersChangeState : Prop :=
  ∀ (s t : State) (op : HostOp) (rest : List HostOp), Memory.wf s.outBuf → s.pending = op :: rest → step s = .next t →
    (t.key ≠ s.key → ∃ n v, n < 32 ∧ op = .wr n v) ∧
    (t.keyLen ≠ s.keyLen → ∃ v, op = .wr 32 v) ∧
    (t.len ≠ s.len → ∃ v, op = .wr 33 v) ∧
    (t.inBuf ≠ s.inBuf → ∃ a, (∃ v, op = .wri a v) ∨ op = .wriRdo a) ∧
    (∀ a, Memory.read t.outBuf a ≠ Memory.read s.outBuf a → a < s.len.toNat ∧ t.err = 0 ∧
      ∃ v, op = .wr 34 v ∧ (decode (BitVec.ofNat 8 v) = .ok .encrypt ∨ decode (BitVec.ofNat 8 v) = .ok .decrypt)) ∧
    (t.valid ≠ s.valid → ∃ v, op = .wr 34 v ∧ decode (BitVec.ofNat 8 v) = .ok .construct) ∧
    (t.err ≠ s.err → ∃ v, op = .wr 34 v) ∧
    (t.rounds ≠ s.rounds ∨ t.kLen ≠ s.kLen ∨ t.ek ≠ s.ek ∨ t.dk ≠ s.dk →
      t.valid = true ∧ t.err = 0 ∧ ∃ v, op = .wr 34 v ∧ decode (BitVec.ofNat 8 v) = .ok .construct) ∧
    (∀ i < 17, t.ek.entry i ≠ s.ek.entry i ∨ t.dk.entry i ≠ s.dk.entry i → i ≤ t.rounds.toNat) ∧
    (∀ v, op = .wr 34 v → t.err ≠ 0 → t = { s with pending := rest, err := t.err, valid := t.valid })

/-- R29, R193: with any host operation but a command write the host neither changes nor learns a round key: the step
keeps both files, and with any other files in their place it leaves the same state but for them. -/
def Obligations.HostCannotReachRoundKeys : Prop :=
  ∀ (s t : State) (op : HostOp) (rest : List HostOp) (ek dk : KeyFile), s.pending = op :: rest →
    (∀ v, op ≠ .wr 34 v) → step s = .next t →
    t.ek = s.ek ∧ t.dk = s.dk ∧ step { s with ek := ek, dk := dk } = .next { t with ek := ek, dk := dk }

/-! ## The constant tables and the layers -/

/-- R96: the document's two identities, and what the spec derives from them: the two reversed ones, and each table a
permutation. -/
def Obligations.TablesAreMutuallyInverse : Prop :=
  (∀ v : Byte, sb3 (sb1 v) = v ∧ sb4 (sb2 v) = v ∧ sb1 (sb3 v) = v ∧ sb2 (sb4 v) = v) ∧
    sb1.Bijective ∧ sb2.Bijective ∧ sb3.Bijective ∧ sb4.Bijective

/-- R97: the two entries the document prints. -/
def Obligations.TableSpotValues : Prop := sb1 0x23 = 0x26 ∧ sb4 0xef = 0xd3

/-- R103: which table each position of each layer uses; no position is mixed with another. -/
def Obligations.SubstitutionUsesTabledTable : Prop :=
  ∀ (x : Block) (i : Nat), i < 16 →
    (i % 4 = 0 → byteOf (sl1 x) i = sb1 (byteOf x i) ∧ byteOf (sl2 x) i = sb3 (byteOf x i)) ∧
    (i % 4 = 1 → byteOf (sl1 x) i = sb2 (byteOf x i) ∧ byteOf (sl2 x) i = sb4 (byteOf x i)) ∧
    (i % 4 = 2 → byteOf (sl1 x) i = sb3 (byteOf x i) ∧ byteOf (sl2 x) i = sb1 (byteOf x i)) ∧
    (i % 4 = 3 → byteOf (sl1 x) i = sb4 (byteOf x i) ∧ byteOf (sl2 x) i = sb2 (byteOf x i))

/-- R102, as the spec derives it from R96, R100 and R101: the two layers are inverse to each other; neither is linear
and neither is an involution. -/
def Obligations.SubstitutionLayersInvert : Prop :=
  (∀ x : Block, sl2 (sl1 x) = x ∧ sl1 (sl2 x) = x) ∧
    (∃ x y, sl1 (x ^^^ y) ≠ sl1 x ^^^ sl1 y) ∧ (∃ x y, sl2 (x ^^^ y) ≠ sl2 x ^^^ sl2 y) ∧
    sl1 (sl1 0) = 0xfb5b48c0fb5b48c0fb5b48c0fb5b48c0 ∧ (∃ x, sl1 (sl1 x) ≠ x) ∧ ∃ x, sl2 (sl2 x) ≠ x

/-- The 16 x 16 matrix of R111, a row a number whose leftmost bit is column 0. -/
def Obligations.DiffusionMatrixIsTabled : Prop :=
  (∀ i < 16, ∀ j < 16, (j ∈ diffusionIndex.getD i [] ↔
      ([0b0001101011000110, 0b0010010111001001, 0b0100101000111001, 0b1000010100110110,
        0b1010010010010011, 0b0101100001100011, 0b1010000101101100, 0b0101001010011100,
        0b1100100100100101, 0b1100011000011010, 0b0011011010000101, 0b0011100101001010,
        0b0110001101011000, 0b1001001110100100, 0b1001110001010010, 0b0110110010100001].getD i 0).testBit (15 - j))) ∧
    (∀ i < 16, (diffusionIndex.getD i []).length = 7 ∧ (diffusionIndex.getD i []).Nodup ∧
      ∀ j ∈ diffusionIndex.getD i [], j < 16) ∧
    (∀ j < 16, ((List.range 16).filter fun i => j ∈ diffusionIndex.getD i []).length = 7) ∧
    ∀ i < 16, ∀ j < 16, j ∈ diffusionIndex.getD i [] ↔ i ∈ diffusionIndex.getD j []

/-- R110: each output byte is the XOR of the seven input bytes at its index set; the layer is linear, and keeps a block
of sixteen equal bytes; and the rule's example. -/
def Obligations.DiffusionXorsSevenBytes : Prop :=
  (∀ (x : Block) (i : Nat), i < 16 → ∃ j1 j2 j3 j4 j5 j6 j7, diffusionIndex[i]? = some [j1, j2, j3, j4, j5, j6, j7] ∧
      byteOf (diffuse x) i =
        byteOf x j1 ^^^ byteOf x j2 ^^^ byteOf x j3 ^^^ byteOf x j4 ^^^ byteOf x j5 ^^^ byteOf x j6 ^^^ byteOf x j7) ∧
    (∀ x z : Block, diffuse (x ^^^ z) = diffuse x ^^^ diffuse z) ∧
    (∀ v : Byte, diffuse (blockOf fun _ => v) = blockOf fun _ => v) ∧
    diffuse 0x000102030405060708090a0b0c0d0e0f = 0x03020100050407060a0b08090c0d0e0f

/-- R112, as the spec derives it from R111: the diffusion layer is an involution, hence a bijection that is its own
inverse. -/
def Obligations.DiffusionIsInvolution : Prop := (∀ x : Block, diffuse (diffuse x) = x) ∧ diffuse.Bijective

/-- R120, R121: the two formulas; a round function depends on its operands through their XOR only, so its operands may
be exchanged; the values at zero and the rules' examples. -/
def Obligations.RoundFunctionsSeeOnlyTheXor : Prop :=
  (∀ d rk : Block, roundOdd d rk = diffuse (sl1 (xorBlock d rk)) ∧ roundEven d rk = diffuse (sl2 (xorBlock d rk)) ∧
      roundOdd d rk = roundOdd rk d ∧ roundOdd d rk = roundOdd (xorBlock d rk) 0 ∧
      roundEven d rk = roundEven rk d ∧ roundEven d rk = roundEven (xorBlock d rk) 0) ∧
    roundOdd 0 0 = 0x3052e263e2633052523063e263e25230 ∧ roundEven 0 0 = 0xe26330523052e26363e25230523063e2 ∧
    roundOdd 0x00112233445566778899aabbccddeeff c1 = 0xa7be579e6af8640761e5716a00db1ee6 ∧
    roundEven 0x00112233445566778899aabbccddeeff c1 = 0xd16a1e8b4384e95449076ed03a988755

/-- R122, as the spec derives it from R102, R112, R120 and R121: for a fixed key each round function is a bijection,
with the inverse written out; a key XOR moves across the diffusion layer; the two round functions are not inverse to
each other. -/
def Obligations.RoundFunctionsInvert : Prop :=
  (∀ d rk : Block, sl2 (diffuse (roundOdd d rk)) ^^^ rk = d ∧ roundOdd (sl2 (diffuse d) ^^^ rk) rk = d) ∧
    (∀ d rk : Block, sl1 (diffuse (roundEven d rk)) ^^^ rk = d ∧ roundEven (sl1 (diffuse d) ^^^ rk) rk = d) ∧
    (∀ rk : Block, (fun d => roundOdd d rk).Bijective ∧ (fun d => roundEven d rk).Bijective) ∧
    (∀ y k : Block, diffuse (y ^^^ k) = diffuse y ^^^ diffuse k) ∧ ∃ d rk : Block, roundEven (roundOdd d rk) rk ≠ d

/-! ## Byte order, rotation and XOR -/

/-- R8, R50: byte `k` of a block is at address `a + k` and is byte `15 - k` of the number; bit position `p`, read left
to right, has weight `2^(127-p)`. -/
def Obligations.BlocksLieLeftmostByteFirst : Prop :=
  (∀ (m : Memory) (a k : Nat), k < 16 → byteOf (Memory.readBlock m a) k = Memory.read m (a + k)) ∧
    (∀ (x : Block) (k : Nat), k < 16 → (byteOf x k).toNat = x.toNat / 256 ^ (15 - k) % 256) ∧
    (∀ (x : Block) (p : Nat), p < 128 → bitAt x p = x.toNat.testBit (127 - p)) ∧
    ∀ x : Block, intOf (stringOf x) = x.toNat

/-- R171, R172 on a block: where each bit position comes from, and the number a left rotation gives. -/
def Obligations.RotationMovesBitPositions : Prop :=
  ∀ (x : Block) (n p : Nat), p < 128 →
    bitAt (rol x n) p = bitAt x ((p + n % 128) % 128) ∧
    bitAt (ror x n) p = bitAt x ((p + (128 - n % 128)) % 128) ∧
    (rol x n).toNat = (x.toNat * 2 ^ (n % 128)) % 2 ^ 128 + x.toNat / 2 ^ (128 - n % 128)

/-- R171, byte by byte: the byte form of the rule gives the same string as the number form, for every non-empty string.
-/
def Obligations.StringRotationBytewise : Prop :=
  ∀ (x : List Byte) (n : Nat), x ≠ [] →
    ∃ z : List Byte, rolString x n = some z ∧ z.length = x.length ∧
      ∀ i < x.length, (z.getD i 0).toNat = rolByte x n i

/-- R173: the document's rotation identities and those the spec derives from R171 and R172, for byte strings of every
length `L >= 1`; that the empty string has no rotation is the model's choice (log entry 8). -/
def Obligations.RotationIdentities : Prop :=
  ∀ x : List Byte, x ≠ [] →
    rolString x 0 = some x ∧ rolString x (8 * x.length) = some x ∧
    (∀ n, (rolString x n).bind (rorString · n) = some x) ∧
    (∀ n, (rorString x n).bind (rolString · n) = some x) ∧
    (∀ a b, (rolString x a).bind (rolString · b) = rolString x (a + b)) ∧
    (∀ (y : List Byte) (n : Nat), y.length = x.length →
      ∃ z zx zy, xorString x y = some z ∧ rolString x n = some zx ∧ rolString y n = some zy ∧
        rolString z n = xorString zx zy) ∧
    (∀ n, rolString (List.replicate x.length 0) n = some (List.replicate x.length 0)) ∧ ∀ n, rolString [] n = none

/-- The engine's rotation and XOR of blocks are the units of R170 to R172 on strings of sixteen bytes. -/
def Obligations.BlockUnitsAgreeWithStringUnits : Prop :=
  (∀ (x : Block) (n : Nat), rolString (stringOf x) n = some (stringOf (rol x n)) ∧
      rorString (stringOf x) n = some (stringOf (ror x n))) ∧
    ∀ x y : Block, xorString (stringOf x) (stringOf y) = some (stringOf (xorBlock x y))

/-- R170: `XOR` of strings keeps the first operand's length and copies the bytes beyond the second; a longer second
operand has no result (log entry 8). -/
def Obligations.StringXorCopiesBeyondShorterOperand : Prop :=
  (∀ x y : List Byte, y.length ≤ x.length → ∃ z, xorString x y = some z ∧ z.length = x.length ∧
      (∀ i < y.length, z.getD i 0 = x.getD i 0 ^^^ y.getD i 0) ∧
      ∀ i, y.length ≤ i → z.getD i 0 = x.getD i 0) ∧
    ∀ x y : List Byte, x.length < y.length → xorString x y = none

/-! ## The key schedule -/

/-- R132: the round count and the order of the round constants by key length; `R` is even. -/
def Obligations.KeyLengthSelectsRounds : Prop :=
  selectByLength 16 = some ⟨12, c1, c2, c3⟩ ∧ selectByLength 24 = some ⟨14, c2, c3, c1⟩ ∧
    selectByLength 32 = some ⟨16, c3, c1, c2⟩ ∧ ∀ n p, selectByLength n = some p → p.rounds % 2 = 0

/-- R133: `KL` is the leftmost 16 bytes, `KR` the remaining bytes with zero bytes on the right; every key byte takes
part. -/
def Obligations.KeySplitUsesEveryByte : Prop :=
  ∀ key : List Byte, key.length ∈ [16, 24, 32] →
    stringOf (keyLeft key) = key.take 16 ∧
    stringOf (keyRight key) = key.drop 16 ++ List.replicate (32 - key.length) 0 ∧
    ∀ key' : List Byte, key'.length = key.length → keyLeft key' = keyLeft key → keyRight key' = keyRight key → key' = key

/-- R134: the four values of the Feistel computation. -/
def Obligations.FeistelComputesWords : Prop :=
  ∀ (p : KeyParams) (key : List Byte),
    (keyWords p key).w0 = keyLeft key ∧
    (keyWords p key).w1 = xorBlock (roundOdd (keyWords p key).w0 p.ck1) (keyRight key) ∧
    (keyWords p key).w2 = xorBlock (roundEven (keyWords p key).w1 p.ck2) (keyWords p key).w0 ∧
    (keyWords p key).w3 = xorBlock (roundOdd (keyWords p key).w2 p.ck3) (keyWords p key).w1

/-- R135: the seventeen formulas are the closed form `ek_k = XOR(W_m, rot_g(W_(m+1)))`. -/
def Obligations.CandidatesFollowClosedForm : Prop :=
  ∀ w0 w1 w2 w3 : Block, ∀ k ∈ List.range' 1 17,
    let word : Nat → Block := fun m => [w0, w1, w2, w3].getD (m % 4) 0
    let rot : Block → Block := fun x =>
      match (k - 1) / 4 with
      | 0 => ror x 19
      | 1 => ror x 31
      | 2 => rol x 61
      | 3 => rol x 31
      | _ => rol x 19
    candidate ⟨w0, w1, w2, w3⟩ k = word ((k - 1) % 4) ^^^ rot (word ((k - 1) % 4 + 1))

/-- CONSTRUCT with `KEYLEN` 16, 24 or 32 answers a next state that holds the instance of `KEY[0..KEYLEN-1]`: `R+1`
encryption keys (R138) and `R+1` decryption keys (R139), with `EK[i] = A(DK[R-i])` as the spec derives it in R139 from
R112; `ROUNDS`, `KLEN`, `VALID`, `ERR`, the entries above `R` and all that is unchanged as R131 says. -/
def Obligations.ConstructInstallsInstance : Prop :=
  ∀ (s : State) (p : KeyParams),
    (s.keyLen.toNat, p) ∈ [(16, ⟨12, c1, c2, c3⟩), (24, ⟨14, c2, c3, c1⟩), (32, ⟨16, c3, c1, c2⟩)] →
    ∃ t, exec .construct s = .next t ∧
      (∀ i ≤ p.rounds, t.ek.entry i = candidate (keyWords p (s.key.toList.take s.keyLen.toNat)) (i + 1)) ∧
      t.dk.entry 0 = t.ek.entry p.rounds ∧ t.dk.entry p.rounds = t.ek.entry 0 ∧
      (∀ i, 1 ≤ i → i < p.rounds →
        t.dk.entry i = diffuse (t.ek.entry (p.rounds - i)) ∧ t.ek.entry i = diffuse (t.dk.entry (p.rounds - i))) ∧
      (∀ i, p.rounds < i → i < 17 → t.ek.entry i = s.ek.entry i ∧ t.dk.entry i = s.dk.entry i) ∧
      t.rounds.toNat = p.rounds ∧ t.kLen = s.keyLen ∧ t.valid = true ∧ t.err = 0 ∧
      t = { s with ek := t.ek, dk := t.dk, rounds := t.rounds, kLen := t.kLen, valid := true, err := 0 }

/-- R131, R184: CONSTRUCT with any other `KEYLEN` raises InvalidKeyLength: `ERR` is 1, `VALID` is 0, nothing else
changes. -/
def Obligations.ConstructRefusesOtherLengths : Prop :=
  ∀ s : State, s.keyLen ≠ 16 → s.keyLen ≠ 24 → s.keyLen ≠ 32 →
    exec .construct s = .next { s with valid := false, err := 1 }

/-- The frame of CONSTRUCT, whatever `KEYLEN` holds: `KEY`, `KEYLEN`, `LEN`, every byte of `IN` and `OUT`, the host's
side, and the entries of `EK` and `DK` above the new `ROUNDS` are unchanged; on an error so are all of `EK`, `DK`,
`ROUNDS` and `KLEN`. -/
def Obligations.ConstructFrame : Prop :=
  ∀ s t : State, exec .construct s = .next t →
    t.key = s.key ∧ t.keyLen = s.keyLen ∧ t.len = s.len ∧ t.pending = s.pending ∧ t.returned = s.returned ∧
    (∀ a, Memory.read t.inBuf a = Memory.read s.inBuf a) ∧ (∀ a, Memory.read t.outBuf a = Memory.read s.outBuf a) ∧
    (∀ i, t.rounds.toNat < i → i < 17 → t.ek.entry i = s.ek.entry i ∧ t.dk.entry i = s.dk.entry i) ∧
    (t.err ≠ 0 → t.ek = s.ek ∧ t.dk = s.dk ∧ t.rounds = s.rounds ∧ t.kLen = s.kLen)

/-- R21, R131: CONSTRUCT reads `KEY[0..KEYLEN-1]` only: bytes of `KEY` from `KEYLEN` up have no influence, and for an
illegal `KEYLEN` no byte has. -/
def Obligations.ConstructReadsOnlyPresentedKey : Prop :=
  ∀ (s t : State) (key : Vector Byte 32),
    ((∀ (i : Nat) (h : i < 32), i < s.keyLen.toNat → key[i] = s.key[i]) ∨ selectByLength s.keyLen.toNat = none) →
    exec .construct s = .next t → exec .construct { s with key := key } = .next { t with key := key }

/-! ## The block driver -/

/-- R150, R151, R153: `FO` at even and `FE` at odd round index, then the final round; the sequence of the 12-round key
written out. -/
def Obligations.RoundControllerAlternates : Prop :=
  (∀ (file : KeyFile) (p : Block) (j : Nat), afterRounds file p 0 = p ∧
      (j % 2 = 0 → afterRounds file p (j + 1) = roundOdd (afterRounds file p j) (file.entry j)) ∧
      (j % 2 = 1 → afterRounds file p (j + 1) = roundEven (afterRounds file p j) (file.entry j))) ∧
    (∀ (file : KeyFile) (p : Block) (r : Nat), crypt p file r =
      sl2 (afterRounds file p (r - 1) ^^^ file.entry (r - 1)) ^^^ file.entry r) ∧
    ∀ (k : KeyFile) (p : Block), crypt p k 12 =
      sl2 (roundOdd (roundEven (roundOdd (roundEven (roundOdd (roundEven (roundOdd (roundEven (roundOdd (roundEven
        (roundOdd p (k.entry 0)) (k.entry 1)) (k.entry 2)) (k.entry 3)) (k.entry 4)) (k.entry 5)) (k.entry 6))
        (k.entry 7)) (k.entry 8)) (k.entry 9)) (k.entry 10) ^^^ k.entry 11) ^^^ k.entry 12

/-- R152, as the spec derives it from R150 and R151: of the round indices below `R-1`, at how many the controller runs
`FO` and at how many `FE`; the full rounds are those of the controller and one final round follows; and `Crypt` uses the
keys `K[0..R]` only. -/
def Obligations.RoundCountsPerKind : Prop :=
  ∀ r ∈ [(12, 6, 5), (14, 7, 6), (16, 8, 7)],
    {j : Nat | j < r.1 - 1 ∧ roundAt j = roundOdd}.ncard = r.2.1 ∧
    {j : Nat | j < r.1 - 1 ∧ roundAt j = roundEven}.ncard = r.2.2 ∧
    (∀ (file : KeyFile) (p : Block),
      (∀ j < r.1 - 1, afterRounds file p (j + 1) = roundAt j (afterRounds file p j) (file.entry j)) ∧
      crypt p file r.1 = finalRound (afterRounds file p (r.1 - 1)) file r.1) ∧
    ∀ (file file' : KeyFile) (p : Block), (∀ i ≤ r.1, file.entry i = file'.entry i) →
      crypt p file r.1 = crypt p file' r.1

/-- R156: the length check, and the lengths accepted under each key length. -/
def Obligations.AcceptedLengths : Prop :=
  (∀ len kLen : Nat, lengthAccepted len kLen = false ↔ len = 0 ∨ len % kLen ≠ 0 ∨ len % 16 ≠ 0) ∧
    ∀ len : Nat, (lengthAccepted len 16 = true ↔ 0 < len ∧ 16 ∣ len) ∧
      (lengthAccepted len 24 = true ↔ 0 < len ∧ 48 ∣ len) ∧ (lengthAccepted len 32 = true ↔ 0 < len ∧ 32 ∣ len)

/-- R155, R157: ENCRYPT with an instance and an accepted `LEN` answers a next state in which every block of `OUT` below
`LEN` is the `Crypt` of the block of `IN` at the same address under `EK`, and nothing else but `ERR` (now 0) has
changed. `OUT` is canonical by the invariant. -/
def Obligations.EncryptWritesEveryBlock : Prop :=
  ∀ s : State, Memory.wf s.outBuf → s.valid = true → lengthAccepted s.len.toNat s.kLen.toNat = true →
    ∃ t, exec .encrypt s = .next t ∧
      (∀ i < s.len.toNat / 16,
        Memory.readBlock t.outBuf (16 * i) = crypt (Memory.readBlock s.inBuf (16 * i)) s.ek s.rounds.toNat) ∧
      (∀ a, s.len.toNat ≤ a → Memory.read t.outBuf a = Memory.read s.outBuf a) ∧ t.err = 0 ∧
      t = { s with outBuf := t.outBuf, err := 0 }

/-- R158, R157: DECRYPT likewise, under `DK`. -/
def Obligations.DecryptWritesEveryBlock : Prop :=
  ∀ s : State, Memory.wf s.outBuf → s.valid = true → lengthAccepted s.len.toNat s.kLen.toNat = true →
    ∃ t, exec .decrypt s = .next t ∧
      (∀ i < s.len.toNat / 16,
        Memory.readBlock t.outBuf (16 * i) = crypt (Memory.readBlock s.inBuf (16 * i)) s.dk s.rounds.toNat) ∧
      (∀ a, s.len.toNat ≤ a → Memory.read t.outBuf a = Memory.read s.outBuf a) ∧ t.err = 0 ∧
      t = { s with outBuf := t.outBuf, err := 0 }

/-- R184, R186: ENCRYPT and DECRYPT report NoInstance (4) first, else InvalidInputLength (2), and change nothing else.
-/
def Obligations.CryptErrorsInOrder : Prop :=
  ∀ i ∈ [Instr.encrypt, Instr.decrypt], ∀ s : State,
    (s.valid = false → exec i s = .next { s with err := 4 }) ∧
    (s.valid = true → (s.len.toNat = 0 ∨ s.len.toNat % s.kLen.toNat ≠ 0 ∨ s.len.toNat % 16 ≠ 0) →
      exec i s = .next { s with err := 2 })

/-- The frame of ENCRYPT and DECRYPT on every outcome: all but `ERR` and `OUT` is unchanged, and a byte of `OUT` may
change only if the command stores to it: `VALID = 1`, an accepted `LEN`, and an address in a block `16*i .. 16*i+15`,
`i < LEN/16`. -/
def Obligations.EncryptAndDecryptFrame : Prop :=
  ∀ i ∈ [Instr.encrypt, Instr.decrypt], ∀ s t : State, Memory.wf s.outBuf → exec i s = .next t →
    t.key = s.key ∧ t.keyLen = s.keyLen ∧ t.len = s.len ∧ t.valid = s.valid ∧ t.rounds = s.rounds ∧ t.kLen = s.kLen ∧
    t.ek = s.ek ∧ t.dk = s.dk ∧ t.pending = s.pending ∧ t.returned = s.returned ∧
    (∀ a, Memory.read t.inBuf a = Memory.read s.inBuf a) ∧
    ∀ a, ¬ (s.valid = true ∧ lengthAccepted s.len.toNat s.kLen.toNat = true ∧
        ∃ b < s.len.toNat / 16, 16 * b ≤ a ∧ a < 16 * b + 16) →
      Memory.read t.outBuf a = Memory.read s.outBuf a

/-- R157: no chaining: in two states with the same instance, whatever the rest of `IN` and whatever `LEN`, two blocks
that both are processed and hold the same bytes give the same output block. -/
def Obligations.BlocksAreIndependent : Prop :=
  ∀ i ∈ [Instr.encrypt, Instr.decrypt], ∀ s s' t t' : State, Memory.wf s.outBuf → Memory.wf s'.outBuf →
    s'.ek = s.ek → s'.dk = s.dk → s'.rounds = s.rounds →
    exec i s = .next t → exec i s' = .next t' → t.err = 0 → t'.err = 0 →
    ∀ a b, a < s.len.toNat / 16 → b < s'.len.toNat / 16 →
      (∀ k < 16, Memory.read s.inBuf (16 * a + k) = Memory.read s'.inBuf (16 * b + k)) →
      ∀ k < 16, Memory.read t.outBuf (16 * a + k) = Memory.read t'.outBuf (16 * b + k)

/-- R21, R204: the instance is latched: ENCRYPT and DECRYPT do not read `KEY` or `KEYLEN`, ENCRYPT does not read `DK`
and DECRYPT does not read `EK`. -/
def Obligations.CryptIgnoresKeyRegisters : Prop :=
  ∀ (s : State) (key : Vector Byte 32) (n : Byte) (file : KeyFile),
    (∀ t, exec .encrypt s = .next t →
      exec .encrypt { s with key := key, keyLen := n, dk := file } = .next { t with key := key, keyLen := n, dk := file }) ∧
    ∀ t, exec .decrypt s = .next t →
      exec .decrypt { s with key := key, keyLen := n, ek := file } = .next { t with key := key, keyLen := n, ek := file }

/-- R154, as the spec derives it from R102, R112, R139, R150, R151 and R153: for every successful CONSTRUCT, `Crypt`
with `DK` undoes `Crypt` with `EK`, and conversely, on every block. -/
def Obligations.DecryptionInvertsEncryption : Prop :=
  ∀ s t : State, exec .construct s = .next t → t.err = 0 → ∀ p : Block,
    crypt (crypt p t.ek t.rounds.toNat) t.dk t.rounds.toNat = p ∧
    crypt (crypt p t.dk t.rounds.toNat) t.ek t.rounds.toNat = p

/-- R159, as the spec derives it from R154, R155, R157 and R158: with an instance, if one of ENCRYPT and DECRYPT
succeeds and `OUT[0..LEN-1]` is then copied to `IN[0..LEN-1]`, the other succeeds and leaves the original input in
`OUT[0..LEN-1]`. The state meets the invariant. -/
def Obligations.CommandsRoundTrip : Prop :=
  ∀ ij ∈ [(Instr.encrypt, Instr.decrypt), (Instr.decrypt, Instr.encrypt)], ∀ (s t : State) (input : Memory), s.Inv →
    s.valid = true → exec ij.1 s = .next t → t.err = 0 →
    (∀ a < s.len.toNat, Memory.read input a = Memory.read t.outBuf a) →
    ∃ u, exec ij.2 { t with inBuf := input } = .next u ∧ u.err = 0 ∧
      ∀ a < s.len.toNat, Memory.read u.outBuf a = Memory.read s.inBuf a

/-- R160, as the spec derives it from R150, R155 and R157: the step-by-step driver ends exactly after `n * R` steps,
with the `OUT` of the atomic command; so the composition of the steps is ENCRYPT with `EK` and DECRYPT with `DK`. -/
def Obligations.DriverStepsComposeToCommand : Prop :=
  (∀ (input out : Memory) (file : KeyFile) (r n : Nat), 2 ≤ r →
      (iterRun input file r n (n * r) (iterStart input out)).i = n ∧
      (iterRun input file r n (n * r) (iterStart input out)).out = cryptBlocks input file r out n ∧
      ∀ k < n * r, (iterRun input file r n k (iterStart input out)).i < n) ∧
    ∀ s : State, s.Inv → s.valid = true → lengthAccepted s.len.toNat s.kLen.toNat = true →
      exec .encrypt s = .next { s with err := 0, outBuf := (iterRun s.inBuf s.ek s.rounds.toNat (s.len.toNat / 16)
        (s.len.toNat / 16 * s.rounds.toNat) (iterStart s.inBuf s.outBuf)).out } ∧
      exec .decrypt s = .next { s with err := 0, outBuf := (iterRun s.inBuf s.dk s.rounds.toNat (s.len.toNat / 16)
        (s.len.toNat / 16 * s.rounds.toNat) (iterStart s.inBuf s.outBuf)).out }

/-- R53, R185: a command repeated with no host write in between leaves the same state again, whether it succeeded or
raised an error. `OUT` is canonical by the invariant. -/
def Obligations.RepeatedCommandChangesNothing : Prop :=
  ∀ (i : Instr) (s t : State), Memory.wf s.outBuf → exec i s = .next t → exec i t = .next t

/-! ## Errors, reset and the invariant -/

/-- R181: the codes, and the causes no command reports: no command leaves `ERR` 3, 5, 6 or 7, and IllegalCommand (5)
comes from a reserved code only. -/
def Obligations.ErrorCodesAsTabled : Prop :=
  ErrorKind.invalidKeyLength.code = 1 ∧ ErrorKind.invalidInputLength.code = 2 ∧
    ErrorKind.internalInvariantViolation.code = 3 ∧ ErrorKind.noInstance.code = 4 ∧ ErrorKind.illegalCommand.code = 5 ∧
    (∀ (i : Instr) (s t : State), exec i s = .next t → t.err ∈ [0#3, 1#3, 2#3, 4#3]) ∧
    ∀ (c : Byte) (s t : State), issue c s = .next t → (t.err = 5 ↔ c = 0 ∨ 4 ≤ c.toNat)

/-- U10, R26: while `VALID = 0` no command reads `EK`, `DK`, `ROUNDS` or `KLEN`: from two states that differ in them
alone a command leaves states that differ in them alone, and after a CONSTRUCT that succeeds not in any part the host
or a later command can use. -/
def Obligations.NoInstanceHidesItsRegisters : Prop :=
  ∀ (i : Instr) (s t t' : State) (ek dk : KeyFile) (r n : Byte), s.valid = false → exec i s = .next t →
    exec i { s with ek := ek, dk := dk, rounds := r, kLen := n } = .next t' →
    t' = { t with ek := t'.ek, dk := t'.dk, rounds := t'.rounds, kLen := t'.kLen } ∧
    (t.valid = true → t'.rounds = t.rounds ∧ t'.kLen = t.kLen ∧
      ∀ j ≤ t.rounds.toNat, t'.ek.entry j = t.ek.entry j ∧ t'.dk.entry j = t.dk.entry j)

/-- R200: after reset `VALID` and `ERR` are 0 and `STATUS` reads 0x00; `State.reset` is one such state (the values it
names for the other elements are the model's choice, log entries 3 and 4, and no part of this claim). -/
def Obligations.ResetLeavesNoInstance : Prop :=
  State.reset.afterReset ∧ State.reset.status = 0 ∧ ∀ s : State, s.afterReset → s.valid = false ∧ s.err = 0 ∧ s.status = 0

/-- The invariant holds in every state reset may leave. -/
def Obligations.InvariantHoldsAfterReset : Prop := ∀ s : State, s.afterReset → s.Inv

/-- Every step keeps the invariant: both memories canonical, `STATUS` one of the seven values of a command outcome, and
the instance invariants of R30 while `VALID = 1`. -/
def Obligations.EveryStepKeepsInvariant : Prop := ∀ s t : State, s.Inv → step s = .next t → t.Inv

/-- R30, R154, R183 over runs: in every state of every run, with any host program from any state reset may leave,
`STATUS` is one of the seven values, and a valid instance has the invariants of R30 and decrypts what it encrypts. -/
def Obligations.ReachableInstancesAreSound : Prop :=
  ∀ s : State, Reachable s → s.statusInv ∧ s.instanceInv ∧
    (s.valid = true → ∀ p : Block, crypt (crypt p s.ek s.rounds.toNat) s.dk s.rounds.toNat = p)

/-- U3 (`93_implementation_defined.md`), the pinned scenario: the 16-byte key and block of the document's scenario. -/
def Obligations.PinnedScenarioCiphertext : Prop :=
  let key : List Byte := (List.range 16).map (BitVec.ofNat 8)
  let w := keyWords ⟨12, c1, c2, c3⟩ key
  let zero : KeyFile := Vector.replicate 17 0
  crypt 0x00112233445566778899aabbccddeeff (KeyFile.writeFirst zero (encKey w) 13) 12 =
      0xd718fbd6ab644c739da95f3be6451778 ∧
    crypt 0xd718fbd6ab644c739da95f3be6451778 (KeyFile.writeFirst zero (decKey w 12) 13) 12 =
      0x00112233445566778899aabbccddeeff

/-- R154 as an invariant of the machine: every step keeps that `Crypt` with `DK` and `Crypt` with `EK` undo each other
while an instance exists; a CONSTRUCT that succeeds establishes it. -/
def Obligations.EveryStepKeepsDecryption : Prop :=
  ∀ s t : State, s.decryptionInv → step s = .next t → t.decryptionInv
end

