-- ==== Sys2Proof/Laws/Blocks.lean ====
section
/-! SUPPORT. A block is its sixteen bytes. -/

namespace Sys2Proof.Machine

/-- Every bit of `joinBytes f n`: bit `i` is bit `i mod 8` of the byte `n - 1 - i div 8`. -/
theorem getLsbD_joinBytes (f : Nat → Byte) (n i : Nat) :
    (joinBytes f n).getLsbD i = (decide (i < 8 * n ∧ i < 128) && (f (n - 1 - i / 8)).getLsbD (i % 8)) := by
  induction n generalizing i with
  | zero => simp [joinBytes]
  | succ n ih =>
    simp only [joinBytes, BitVec.getLsbD_or, BitVec.getLsbD_shiftLeft, BitVec.getLsbD_setWidth, ih]
    by_cases h : i < 8
    · have h0 : i / 8 = 0 := by omega
      have h1 : i % 8 = i := by omega
      have h2 : i < 8 * (n + 1) := by omega
      have h3 : i < 128 := by omega
      simp [h, h0, h1, h2, h3]
    · have h0 : n + 1 - 1 - i / 8 = n - 1 - (i - 8) / 8 := by omega
      have h1 : (i - 8) % 8 = i % 8 := by omega
      have h2 : (f n).getLsbD i = false := BitVec.getLsbD_of_ge _ _ (by omega)
      have h3 : decide (i < 8 * (n + 1) ∧ i < 128) = decide (i < 128 ∧ i - 8 < 8 * n ∧ i - 8 < 128) :=
        decide_eq_decide.2 (by omega)
      rw [h2, h1, ← h0, h3]
      simp [h, Bool.and_assoc]

@[simp] theorem byteOf_blockOf (f : Nat → Byte) {k : Nat} (h : k < 16) : byteOf (blockOf f) k = f k := by
  unfold byteOf blockOf
  ext i hi
  rw [BitVec.getElem_extractLsb', getLsbD_joinBytes]
  have h1 : 16 - 1 - (8 * (15 - k) + i) / 8 = k := by omega
  have h2 : (8 * (15 - k) + i) % 8 = i := by omega
  have h3 : 8 * (15 - k) + i < 128 := by omega
  rw [h1, h2]
  simp [h3, BitVec.getLsbD_eq_getElem hi]

/-- Two blocks with the same sixteen bytes are the same block. -/
theorem block_ext {x y : Block} (h : ∀ k < 16, byteOf x k = byteOf y k) : x = y := by
  ext i hi
  have h1 := congrArg (fun b => b.getLsbD (i % 8)) (h (15 - i / 8) (by omega))
  simp only [byteOf, BitVec.getLsbD_extractLsb'] at h1
  have e : 8 * (15 - (15 - i / 8)) + i % 8 = i := by omega
  have e2 : i % 8 < 8 := by omega
  rw [e] at h1
  simpa [e2, BitVec.getLsbD_eq_getElem hi] using h1

/-- `blockOf` reads its function at 0..15 only. -/
theorem blockOf_congr {f g : Nat → Byte} (h : ∀ k < 16, f k = g k) : blockOf f = blockOf g :=
  block_ext fun k hk => by rw [byteOf_blockOf f hk, byteOf_blockOf g hk, h k hk]

@[simp] theorem blockOf_byteOf (x : Block) : blockOf (byteOf x) = x :=
  block_ext fun _ hk => byteOf_blockOf _ hk

@[simp] theorem byteOf_xor (x y : Block) (k : Nat) : byteOf (x ^^^ y) k = byteOf x k ^^^ byteOf y k := by
  simp [byteOf, BitVec.extractLsb'_xor]

@[simp] theorem byteOf_zero (k : Nat) : byteOf 0 k = 0 := by
  ext i hi
  simp [byteOf]

@[simp] theorem length_stringOf (x : Block) : (stringOf x).length = 16 := by simp [stringOf]

@[simp] theorem getD_stringOf (x : Block) {k : Nat} (h : k < 16) : (stringOf x).getD k 0 = byteOf x k := by
  simp [stringOf, h]

@[simp] theorem blockOfString_stringOf (x : Block) : blockOfString (stringOf x) = x :=
  block_ext fun k hk => by rw [blockOfString, byteOf_blockOf _ hk, getD_stringOf x hk]

/-- Bit position `p` of R8 is bit `127 - p` of the number. -/
theorem bitAt_eq_getLsbD (x : Block) {p : Nat} (h : p < 128) : bitAt x p = x.getLsbD (127 - p) := by
  have h1 : 8 * (15 - p / 8) + (7 - p % 8) = 127 - p := by omega
  have h2 : 7 - p % 8 < 8 := by omega
  simp [bitAt, byteOf, h1, h2]

end Sys2Proof.Machine
end

