-- ==== Sys2Proof/Laws/KeyFiles.lean ====
section
/-! SUPPORT. Round-key files: reading an entry after a write. -/

namespace Sys2Proof.Machine

/-- `writeFirst` sets the first `n` entries and keeps the others (R29, R131). -/
theorem KeyFile.entry_writeFirst (file : KeyFile) (f : Nat → Block) (n : Nat) {i : Nat} (hi : i < 17) :
    KeyFile.entry (KeyFile.writeFirst file f n) i = if i < n then f i else KeyFile.entry file i := by
  induction n with
  | zero => simp [KeyFile.writeFirst]
  | succ n ih =>
    simp only [KeyFile.entry, hi, dif_pos] at ih ⊢
    rw [KeyFile.writeFirst, Vector.getElem_setIfInBounds]
    by_cases h : n = i
    · subst h; simp
    · rw [if_neg h, ih]
      by_cases h2 : i < n
      · rw [if_pos h2, if_pos (by omega)]
      · rw [if_neg h2, if_neg (by omega)]

/-- The three lengths that select anything (R132). -/
theorem selectByLength_cases {n : Nat} {p : KeyParams} (h : selectByLength n = some p) :
    (n = 16 ∧ p = ⟨12, c1, c2, c3⟩) ∨ (n = 24 ∧ p = ⟨14, c2, c3, c1⟩) ∨ (n = 32 ∧ p = ⟨16, c3, c1, c2⟩) := by
  unfold selectByLength at h
  split at h
  · exact .inl ⟨‹_›, (Option.some.inj h).symm⟩
  · split at h
    · exact .inr (.inl ⟨‹_›, (Option.some.inj h).symm⟩)
    · split at h
      · exact .inr (.inr ⟨‹_›, (Option.some.inj h).symm⟩)
      · exact absurd h (by simp)

/-- The round count of a legal length fits `ROUNDS` and the round-key files, and is even (R5, R132). -/
theorem selectByLength_rounds {n : Nat} {p : KeyParams} (h : selectByLength n = some p) :
    (BitVec.ofNat 8 p.rounds).toNat = p.rounds ∧ 12 ≤ p.rounds ∧ p.rounds ≤ 16 ∧ p.rounds % 2 = 0 := by
  rcases selectByLength_cases h with ⟨-, rfl⟩ | ⟨-, rfl⟩ | ⟨-, rfl⟩ <;> decide

/-- The lengths that select nothing are those CONSTRUCT refuses (R131). -/
theorem selectByLength_eq_none {n : Nat} : selectByLength n = none ↔ n ≠ 16 ∧ n ≠ 24 ∧ n ≠ 32 := by
  unfold selectByLength
  split <;> rename_i h1
  · simp [h1]
  · split <;> rename_i h2
    · simp [h2]
    · split <;> rename_i h3
      · simp [h3]
      · simp [h1, h2, h3]

end Sys2Proof.Machine
end

