-- ==== Sys2Proof/Laws/Memory.lean ====
section
/-! SUPPORT. Memory: every operation keeps the canonical form, and reads after writes. -/

namespace Sys2Proof.Machine

@[simp] theorem Memory.wf_nil : Memory.wf [] := by simp [Memory.wf]

/-- An address below every listed one reads as unwritten. -/
theorem Memory.read_of_lt {m : Memory} {a : Nat} (h : ∀ c ∈ m, a < c.1) : Memory.read m a = Memory.unwritten := by
  induction m with
  | nil => rfl
  | cons c m ih =>
    obtain ⟨b, w⟩ := c
    have hb : a < b := h _ List.mem_cons_self
    rw [Memory.read, if_neg (by omega)]
    exact ih fun c hc => h c (List.mem_cons_of_mem _ hc)

/-- Every cell of a memory after a write was there before, or is the one written. -/
theorem Memory.mem_write {m : Memory} {a : Nat} {v : Byte} {c : Host.Cell} (h : c ∈ Memory.write m a v) :
    c ∈ m ∨ (c = (a, v) ∧ v ≠ Memory.unwritten) := by
  induction m with
  | nil =>
    unfold Memory.write at h
    split at h
    · simp at h
    · exact .inr ⟨by simpa using h, by assumption⟩
  | cons d m ih =>
    obtain ⟨b, w⟩ := d
    unfold Memory.write at h
    split at h
    · split at h
      · exact .inl h
      · rcases List.mem_cons.1 h with h | h
        · exact .inr ⟨h, by assumption⟩
        · exact .inl h
    · split at h
      · split at h
        · exact .inl (List.mem_cons_of_mem _ h)
        · rcases List.mem_cons.1 h with h | h
          · exact .inr ⟨h, by assumption⟩
          · exact .inl (List.mem_cons_of_mem _ h)
      · rcases List.mem_cons.1 h with h | h
        · exact .inl (h ▸ List.mem_cons_self)
        · rcases ih h with h | h
          · exact .inl (List.mem_cons_of_mem _ h)
          · exact .inr h

/-- A write below `BUFSZ` keeps the canonical form. -/
theorem Memory.wf_write {m : Memory} (hm : Memory.wf m) {a : Nat} (ha : a < Config.bufSize) (v : Byte) :
    Memory.wf (Memory.write m a v) := by
  refine ⟨?_, fun c hc => ?_⟩
  · obtain ⟨hp, -⟩ := hm
    induction m with
    | nil => unfold Memory.write; split <;> simp
    | cons d m ih =>
      obtain ⟨b, w⟩ := d
      rw [List.pairwise_cons] at hp
      obtain ⟨hlt, hp'⟩ := hp
      unfold Memory.write
      split
      · split
        · exact List.pairwise_cons.2 ⟨hlt, hp'⟩
        · refine List.pairwise_cons.2 ⟨fun c hc => ?_, List.pairwise_cons.2 ⟨hlt, hp'⟩⟩
          rcases List.mem_cons.1 hc with rfl | hc
          · assumption
          · exact Nat.lt_trans ‹a < b› (hlt c hc)
      · split
        · subst a
          split
          · exact hp'
          · exact List.pairwise_cons.2 ⟨hlt, hp'⟩
        · refine List.pairwise_cons.2 ⟨fun c hc => ?_, ih hp'⟩
          rcases Memory.mem_write hc with hc | ⟨rfl, -⟩
          · exact hlt c hc
          · show b < a
            omega
  · rcases Memory.mem_write hc with hc | ⟨rfl, hv⟩
    · exact hm.2 c hc
    · exact ⟨ha, hv⟩

/-- Read after write (R57): the written address reads the value, every other address reads as before. -/
theorem Memory.read_write {m : Memory} (hm : Memory.wf m) (a b : Nat) (v : Byte) :
    Memory.read (Memory.write m a v) b = if b = a then v else Memory.read m b := by
  obtain ⟨hp, -⟩ := hm
  induction m with
  | nil =>
    unfold Memory.write
    split
    · split <;> simp_all [Memory.read]
    · simp [Memory.read]
  | cons d m ih =>
    obtain ⟨c, w⟩ := d
    rw [List.pairwise_cons] at hp
    obtain ⟨hlt, hp'⟩ := hp
    have hc : ∀ x, x ≤ c → Memory.read m x = Memory.unwritten := fun x hx =>
      Memory.read_of_lt fun y hy => Nat.lt_of_le_of_lt hx (hlt y hy)
    unfold Memory.write
    split
    · split
      · split
        · subst b
          rw [Memory.read, if_neg (by omega), hc a (by omega)]
          simp_all
        · rfl
      · rfl
    · split
      · subst c
        split
        · split
          · subst b; rw [hc a (by omega)]; simp_all
          · rw [Memory.read, if_neg (by assumption)]
        · simp only [Memory.read]
          split <;> rfl
      · simp only [Memory.read, ih hp']
        split <;> split <;> first | rfl | omega

theorem Memory.wf_writeBytes {m : Memory} (hm : Memory.wf m) {a n : Nat} (ha : a + n ≤ Config.bufSize) (f : Nat → Byte) :
    Memory.wf (Memory.writeBytes m a f n) := by
  induction n with
  | zero => exact hm
  | succ n ih => exact Memory.wf_write (ih (by omega)) (by omega) _

theorem Memory.read_writeBytes {m : Memory} (hm : Memory.wf m) {a n : Nat} (ha : a + n ≤ Config.bufSize)
    (f : Nat → Byte) (b : Nat) :
    Memory.read (Memory.writeBytes m a f n) b = if a ≤ b ∧ b < a + n then f (b - a) else Memory.read m b := by
  induction n with
  | zero => rw [Memory.writeBytes, if_neg (by omega)]
  | succ n ih =>
    rw [Memory.writeBytes, Memory.read_write (Memory.wf_writeBytes hm (by omega) f), ih (by omega)]
    by_cases h : b = a + n
    · subst h
      rw [if_pos rfl, if_pos (by omega)]
      congr 1
      omega
    · rw [if_neg h]
      by_cases h2 : a ≤ b ∧ b < a + n
      · rw [if_pos h2, if_pos (by omega)]
      · rw [if_neg h2, if_neg (by omega)]

theorem Memory.wf_writeBlock {m : Memory} (hm : Memory.wf m) {a : Nat} (ha : a + 16 ≤ Config.bufSize) (v : Block) :
    Memory.wf (Memory.writeBlock m a v) := Memory.wf_writeBytes hm ha _

/-- `MemWrite` of a block changes the sixteen bytes at its address and no other (R50). -/
theorem Memory.read_writeBlock {m : Memory} (hm : Memory.wf m) {a : Nat} (ha : a + 16 ≤ Config.bufSize) (v : Block)
    (b : Nat) :
    Memory.read (Memory.writeBlock m a v) b = if a ≤ b ∧ b < a + 16 then byteOf v (b - a) else Memory.read m b :=
  Memory.read_writeBytes hm ha _ b

/-- Byte `k` of `MemRead(S, a, 16)` is the byte at `a + k` (R50). -/
@[simp] theorem Memory.byteOf_readBlock (m : Memory) (a : Nat) {k : Nat} (h : k < 16) :
    byteOf (Memory.readBlock m a) k = Memory.read m (a + k) := byteOf_blockOf _ h

/-- Two memories that agree on a block's bytes hold the same block there. -/
theorem Memory.readBlock_congr {m m' : Memory} {a b : Nat}
    (h : ∀ k < 16, Memory.read m (a + k) = Memory.read m' (b + k)) :
    Memory.readBlock m a = Memory.readBlock m' b := blockOf_congr h

/-- A canonical memory is determined by what its addresses read as. -/
theorem Memory.ext_read {m m' : Memory} (hm : Memory.wf m) (hm' : Memory.wf m')
    (h : ∀ a, Memory.read m a = Memory.read m' a) : m = m' := by
  induction m generalizing m' with
  | nil =>
    cases m' with
    | nil => rfl
    | cons d m' =>
      obtain ⟨b, w⟩ := d
      have := h b
      simp only [Memory.read, if_pos] at this
      exact absurd this.symm (hm'.2 _ List.mem_cons_self).2
  | cons c m ih =>
    obtain ⟨a, v⟩ := c
    cases m' with
    | nil =>
      have := h a
      simp only [Memory.read, if_pos] at this
      exact absurd this (hm.2 _ List.mem_cons_self).2
    | cons d m' =>
      obtain ⟨b, w⟩ := d
      have hlt := (List.pairwise_cons.1 hm.1).1
      have hlt' := (List.pairwise_cons.1 hm'.1).1
      have hv : v ≠ Memory.unwritten := (hm.2 _ List.mem_cons_self).2
      have hw : w ≠ Memory.unwritten := (hm'.2 _ List.mem_cons_self).2
      have below : ∀ x, x ≤ a → Memory.read m x = Memory.unwritten := fun x hx =>
        Memory.read_of_lt fun y hy => Nat.lt_of_le_of_lt hx (hlt y hy)
      have below' : ∀ x, x ≤ b → Memory.read m' x = Memory.unwritten := fun x hx =>
        Memory.read_of_lt fun y hy => Nat.lt_of_le_of_lt hx (hlt' y hy)
      have ha := h a
      have hb := h b
      simp only [Memory.read, if_pos] at ha hb
      have hab : a = b := by
        rcases Nat.lt_trichotomy a b with hl | rfl | hl
        · rw [if_neg (by omega), below' a (by omega)] at ha
          exact absurd ha hv
        · rfl
        · rw [if_neg (by omega), below b (by omega)] at hb
          exact absurd hb.symm hw
      subst hab
      rw [if_pos rfl] at ha
      subst ha
      have wfm : Memory.wf m := ⟨(List.pairwise_cons.1 hm.1).2, fun c hc => hm.2 c (List.mem_cons_of_mem _ hc)⟩
      have wfm' : Memory.wf m' := ⟨(List.pairwise_cons.1 hm'.1).2, fun c hc => hm'.2 c (List.mem_cons_of_mem _ hc)⟩
      rw [ih wfm wfm' fun x => ?_]
      have hx := h x
      simp only [Memory.read] at hx
      by_cases e : x = a
      · rw [below x (by omega), below' x (by omega)]
      · simpa [e] using hx

/-- The block iterator keeps `OUT` canonical (R157). -/
theorem wf_cryptBlocks {out : Memory} (ho : Memory.wf out) (input : Memory) (file : KeyFile) (rounds : Nat) {n : Nat}
    (hn : 16 * n ≤ Config.bufSize) : Memory.wf (cryptBlocks input file rounds out n) := by
  induction n with
  | zero => exact ho
  | succ n ih => exact Memory.wf_writeBlock (ih (by omega)) (by omega) _

/-- Every byte of `OUT` after the block iterator (R157): byte `b` of the first `n` blocks is byte `b mod 16` of the
`Crypt` of the input block it lies in, every byte from `16 n` up is as before. -/
theorem read_cryptBlocks {out : Memory} (ho : Memory.wf out) (input : Memory) (file : KeyFile) (rounds : Nat) {n : Nat}
    (hn : 16 * n ≤ Config.bufSize) (b : Nat) :
    Memory.read (cryptBlocks input file rounds out n) b =
      if b < 16 * n then byteOf (crypt (Memory.readBlock input (16 * (b / 16))) file rounds) (b % 16)
      else Memory.read out b := by
  induction n with
  | zero => simp [cryptBlocks]
  | succ n ih =>
    rw [cryptBlocks, Memory.read_writeBlock (wf_cryptBlocks ho input file rounds (by omega)) (by omega), ih (by omega)]
    by_cases h : 16 * n ≤ b ∧ b < 16 * n + 16
    · have h1 : b / 16 = n := by omega
      have h2 : b - 16 * n = b % 16 := by omega
      rw [if_pos h, if_pos (by omega), h1, h2]
    · rw [if_neg h]
      by_cases h2 : b < 16 * n
      · rw [if_pos h2, if_pos (by omega)]
      · rw [if_neg h2, if_neg (by omega)]

end Sys2Proof.Machine
end

