-- ==== Sys2Proof/Laws/State.lean ====
section
/-! SUPPORT. One lemma per field of State per named update, so that no later proof unfolds a record update. -/

namespace Sys2Proof.Machine

@[simp] theorem State.setErr_key (s : State) (e : BitVec 3) : (s.setErr e).key = s.key := rfl
@[simp] theorem State.setErr_keyLen (s : State) (e : BitVec 3) : (s.setErr e).keyLen = s.keyLen := rfl
@[simp] theorem State.setErr_len (s : State) (e : BitVec 3) : (s.setErr e).len = s.len := rfl
@[simp] theorem State.setErr_inBuf (s : State) (e : BitVec 3) : (s.setErr e).inBuf = s.inBuf := rfl
@[simp] theorem State.setErr_outBuf (s : State) (e : BitVec 3) : (s.setErr e).outBuf = s.outBuf := rfl
@[simp] theorem State.setErr_valid (s : State) (e : BitVec 3) : (s.setErr e).valid = s.valid := rfl
@[simp] theorem State.setErr_err (s : State) (e : BitVec 3) : (s.setErr e).err = e := rfl
@[simp] theorem State.setErr_rounds (s : State) (e : BitVec 3) : (s.setErr e).rounds = s.rounds := rfl
@[simp] theorem State.setErr_kLen (s : State) (e : BitVec 3) : (s.setErr e).kLen = s.kLen := rfl
@[simp] theorem State.setErr_ek (s : State) (e : BitVec 3) : (s.setErr e).ek = s.ek := rfl
@[simp] theorem State.setErr_dk (s : State) (e : BitVec 3) : (s.setErr e).dk = s.dk := rfl
@[simp] theorem State.setErr_pending (s : State) (e : BitVec 3) : (s.setErr e).pending = s.pending := rfl
@[simp] theorem State.setErr_returned (s : State) (e : BitVec 3) : (s.setErr e).returned = s.returned := rfl

@[simp] theorem State.setValid_key (s : State) (b : Bool) : (s.setValid b).key = s.key := rfl
@[simp] theorem State.setValid_keyLen (s : State) (b : Bool) : (s.setValid b).keyLen = s.keyLen := rfl
@[simp] theorem State.setValid_len (s : State) (b : Bool) : (s.setValid b).len = s.len := rfl
@[simp] theorem State.setValid_inBuf (s : State) (b : Bool) : (s.setValid b).inBuf = s.inBuf := rfl
@[simp] theorem State.setValid_outBuf (s : State) (b : Bool) : (s.setValid b).outBuf = s.outBuf := rfl
@[simp] theorem State.setValid_valid (s : State) (b : Bool) : (s.setValid b).valid = b := rfl
@[simp] theorem State.setValid_err (s : State) (b : Bool) : (s.setValid b).err = s.err := rfl
@[simp] theorem State.setValid_rounds (s : State) (b : Bool) : (s.setValid b).rounds = s.rounds := rfl
@[simp] theorem State.setValid_kLen (s : State) (b : Bool) : (s.setValid b).kLen = s.kLen := rfl
@[simp] theorem State.setValid_ek (s : State) (b : Bool) : (s.setValid b).ek = s.ek := rfl
@[simp] theorem State.setValid_dk (s : State) (b : Bool) : (s.setValid b).dk = s.dk := rfl
@[simp] theorem State.setValid_pending (s : State) (b : Bool) : (s.setValid b).pending = s.pending := rfl
@[simp] theorem State.setValid_returned (s : State) (b : Bool) : (s.setValid b).returned = s.returned := rfl

@[simp] theorem State.setKey_key (s : State) (i : Fin 32) (v : Byte) : (s.setKey i v).key = s.key.set i v := rfl
@[simp] theorem State.setKey_keyLen (s : State) (i : Fin 32) (v : Byte) : (s.setKey i v).keyLen = s.keyLen := rfl
@[simp] theorem State.setKey_len (s : State) (i : Fin 32) (v : Byte) : (s.setKey i v).len = s.len := rfl
@[simp] theorem State.setKey_inBuf (s : State) (i : Fin 32) (v : Byte) : (s.setKey i v).inBuf = s.inBuf := rfl
@[simp] theorem State.setKey_outBuf (s : State) (i : Fin 32) (v : Byte) : (s.setKey i v).outBuf = s.outBuf := rfl
@[simp] theorem State.setKey_valid (s : State) (i : Fin 32) (v : Byte) : (s.setKey i v).valid = s.valid := rfl
@[simp] theorem State.setKey_err (s : State) (i : Fin 32) (v : Byte) : (s.setKey i v).err = s.err := rfl
@[simp] theorem State.setKey_rounds (s : State) (i : Fin 32) (v : Byte) : (s.setKey i v).rounds = s.rounds := rfl
@[simp] theorem State.setKey_kLen (s : State) (i : Fin 32) (v : Byte) : (s.setKey i v).kLen = s.kLen := rfl
@[simp] theorem State.setKey_ek (s : State) (i : Fin 32) (v : Byte) : (s.setKey i v).ek = s.ek := rfl
@[simp] theorem State.setKey_dk (s : State) (i : Fin 32) (v : Byte) : (s.setKey i v).dk = s.dk := rfl
@[simp] theorem State.setKey_pending (s : State) (i : Fin 32) (v : Byte) : (s.setKey i v).pending = s.pending := rfl
@[simp] theorem State.setKey_returned (s : State) (i : Fin 32) (v : Byte) : (s.setKey i v).returned = s.returned := rfl

@[simp] theorem State.setKeyLen_key (s : State) (v : Byte) : (s.setKeyLen v).key = s.key := rfl
@[simp] theorem State.setKeyLen_keyLen (s : State) (v : Byte) : (s.setKeyLen v).keyLen = v := rfl
@[simp] theorem State.setKeyLen_len (s : State) (v : Byte) : (s.setKeyLen v).len = s.len := rfl
@[simp] theorem State.setKeyLen_inBuf (s : State) (v : Byte) : (s.setKeyLen v).inBuf = s.inBuf := rfl
@[simp] theorem State.setKeyLen_outBuf (s : State) (v : Byte) : (s.setKeyLen v).outBuf = s.outBuf := rfl
@[simp] theorem State.setKeyLen_valid (s : State) (v : Byte) : (s.setKeyLen v).valid = s.valid := rfl
@[simp] theorem State.setKeyLen_err (s : State) (v : Byte) : (s.setKeyLen v).err = s.err := rfl
@[simp] theorem State.setKeyLen_rounds (s : State) (v : Byte) : (s.setKeyLen v).rounds = s.rounds := rfl
@[simp] theorem State.setKeyLen_kLen (s : State) (v : Byte) : (s.setKeyLen v).kLen = s.kLen := rfl
@[simp] theorem State.setKeyLen_ek (s : State) (v : Byte) : (s.setKeyLen v).ek = s.ek := rfl
@[simp] theorem State.setKeyLen_dk (s : State) (v : Byte) : (s.setKeyLen v).dk = s.dk := rfl
@[simp] theorem State.setKeyLen_pending (s : State) (v : Byte) : (s.setKeyLen v).pending = s.pending := rfl
@[simp] theorem State.setKeyLen_returned (s : State) (v : Byte) : (s.setKeyLen v).returned = s.returned := rfl

@[simp] theorem State.setLen_key (s : State) (v : BitVec Config.lenW) : (s.setLen v).key = s.key := rfl
@[simp] theorem State.setLen_keyLen (s : State) (v : BitVec Config.lenW) : (s.setLen v).keyLen = s.keyLen := rfl
@[simp] theorem State.setLen_len (s : State) (v : BitVec Config.lenW) : (s.setLen v).len = v := rfl
@[simp] theorem State.setLen_inBuf (s : State) (v : BitVec Config.lenW) : (s.setLen v).inBuf = s.inBuf := rfl
@[simp] theorem State.setLen_outBuf (s : State) (v : BitVec Config.lenW) : (s.setLen v).outBuf = s.outBuf := rfl
@[simp] theorem State.setLen_valid (s : State) (v : BitVec Config.lenW) : (s.setLen v).valid = s.valid := rfl
@[simp] theorem State.setLen_err (s : State) (v : BitVec Config.lenW) : (s.setLen v).err = s.err := rfl
@[simp] theorem State.setLen_rounds (s : State) (v : BitVec Config.lenW) : (s.setLen v).rounds = s.rounds := rfl
@[simp] theorem State.setLen_kLen (s : State) (v : BitVec Config.lenW) : (s.setLen v).kLen = s.kLen := rfl
@[simp] theorem State.setLen_ek (s : State) (v : BitVec Config.lenW) : (s.setLen v).ek = s.ek := rfl
@[simp] theorem State.setLen_dk (s : State) (v : BitVec Config.lenW) : (s.setLen v).dk = s.dk := rfl
@[simp] theorem State.setLen_pending (s : State) (v : BitVec Config.lenW) : (s.setLen v).pending = s.pending := rfl
@[simp] theorem State.setLen_returned (s : State) (v : BitVec Config.lenW) : (s.setLen v).returned = s.returned := rfl

@[simp] theorem State.setIn_key (s : State) (a : Nat) (v : Byte) : (s.setIn a v).key = s.key := rfl
@[simp] theorem State.setIn_keyLen (s : State) (a : Nat) (v : Byte) : (s.setIn a v).keyLen = s.keyLen := rfl
@[simp] theorem State.setIn_len (s : State) (a : Nat) (v : Byte) : (s.setIn a v).len = s.len := rfl
@[simp] theorem State.setIn_inBuf (s : State) (a : Nat) (v : Byte) : (s.setIn a v).inBuf = Memory.write s.inBuf a v := rfl
@[simp] theorem State.setIn_outBuf (s : State) (a : Nat) (v : Byte) : (s.setIn a v).outBuf = s.outBuf := rfl
@[simp] theorem State.setIn_valid (s : State) (a : Nat) (v : Byte) : (s.setIn a v).valid = s.valid := rfl
@[simp] theorem State.setIn_err (s : State) (a : Nat) (v : Byte) : (s.setIn a v).err = s.err := rfl
@[simp] theorem State.setIn_rounds (s : State) (a : Nat) (v : Byte) : (s.setIn a v).rounds = s.rounds := rfl
@[simp] theorem State.setIn_kLen (s : State) (a : Nat) (v : Byte) : (s.setIn a v).kLen = s.kLen := rfl
@[simp] theorem State.setIn_ek (s : State) (a : Nat) (v : Byte) : (s.setIn a v).ek = s.ek := rfl
@[simp] theorem State.setIn_dk (s : State) (a : Nat) (v : Byte) : (s.setIn a v).dk = s.dk := rfl
@[simp] theorem State.setIn_pending (s : State) (a : Nat) (v : Byte) : (s.setIn a v).pending = s.pending := rfl
@[simp] theorem State.setIn_returned (s : State) (a : Nat) (v : Byte) : (s.setIn a v).returned = s.returned := rfl

@[simp] theorem State.setOutBuf_key (s : State) (m : Memory) : (s.setOutBuf m).key = s.key := rfl
@[simp] theorem State.setOutBuf_keyLen (s : State) (m : Memory) : (s.setOutBuf m).keyLen = s.keyLen := rfl
@[simp] theorem State.setOutBuf_len (s : State) (m : Memory) : (s.setOutBuf m).len = s.len := rfl
@[simp] theorem State.setOutBuf_inBuf (s : State) (m : Memory) : (s.setOutBuf m).inBuf = s.inBuf := rfl
@[simp] theorem State.setOutBuf_outBuf (s : State) (m : Memory) : (s.setOutBuf m).outBuf = m := rfl
@[simp] theorem State.setOutBuf_valid (s : State) (m : Memory) : (s.setOutBuf m).valid = s.valid := rfl
@[simp] theorem State.setOutBuf_err (s : State) (m : Memory) : (s.setOutBuf m).err = s.err := rfl
@[simp] theorem State.setOutBuf_rounds (s : State) (m : Memory) : (s.setOutBuf m).rounds = s.rounds := rfl
@[simp] theorem State.setOutBuf_kLen (s : State) (m : Memory) : (s.setOutBuf m).kLen = s.kLen := rfl
@[simp] theorem State.setOutBuf_ek (s : State) (m : Memory) : (s.setOutBuf m).ek = s.ek := rfl
@[simp] theorem State.setOutBuf_dk (s : State) (m : Memory) : (s.setOutBuf m).dk = s.dk := rfl
@[simp] theorem State.setOutBuf_pending (s : State) (m : Memory) : (s.setOutBuf m).pending = s.pending := rfl
@[simp] theorem State.setOutBuf_returned (s : State) (m : Memory) : (s.setOutBuf m).returned = s.returned := rfl

@[simp] theorem State.install_key (s : State) (ek dk : KeyFile) (r n : Byte) : (s.install ek dk r n).key = s.key := rfl
@[simp] theorem State.install_keyLen (s : State) (ek dk : KeyFile) (r n : Byte) : (s.install ek dk r n).keyLen = s.keyLen := rfl
@[simp] theorem State.install_len (s : State) (ek dk : KeyFile) (r n : Byte) : (s.install ek dk r n).len = s.len := rfl
@[simp] theorem State.install_inBuf (s : State) (ek dk : KeyFile) (r n : Byte) : (s.install ek dk r n).inBuf = s.inBuf := rfl
@[simp] theorem State.install_outBuf (s : State) (ek dk : KeyFile) (r n : Byte) : (s.install ek dk r n).outBuf = s.outBuf := rfl
@[simp] theorem State.install_valid (s : State) (ek dk : KeyFile) (r n : Byte) : (s.install ek dk r n).valid = true := rfl
@[simp] theorem State.install_err (s : State) (ek dk : KeyFile) (r n : Byte) : (s.install ek dk r n).err = s.err := rfl
@[simp] theorem State.install_rounds (s : State) (ek dk : KeyFile) (r n : Byte) : (s.install ek dk r n).rounds = r := rfl
@[simp] theorem State.install_kLen (s : State) (ek dk : KeyFile) (r n : Byte) : (s.install ek dk r n).kLen = n := rfl
@[simp] theorem State.install_ek (s : State) (ek dk : KeyFile) (r n : Byte) : (s.install ek dk r n).ek = ek := rfl
@[simp] theorem State.install_dk (s : State) (ek dk : KeyFile) (r n : Byte) : (s.install ek dk r n).dk = dk := rfl
@[simp] theorem State.install_pending (s : State) (ek dk : KeyFile) (r n : Byte) : (s.install ek dk r n).pending = s.pending := rfl
@[simp] theorem State.install_returned (s : State) (ek dk : KeyFile) (r n : Byte) : (s.install ek dk r n).returned = s.returned := rfl

@[simp] theorem State.setPending_key (s : State) (ops : List HostOp) : (s.setPending ops).key = s.key := rfl
@[simp] theorem State.setPending_keyLen (s : State) (ops : List HostOp) : (s.setPending ops).keyLen = s.keyLen := rfl
@[simp] theorem State.setPending_len (s : State) (ops : List HostOp) : (s.setPending ops).len = s.len := rfl
@[simp] theorem State.setPending_inBuf (s : State) (ops : List HostOp) : (s.setPending ops).inBuf = s.inBuf := rfl
@[simp] theorem State.setPending_outBuf (s : State) (ops : List HostOp) : (s.setPending ops).outBuf = s.outBuf := rfl
@[simp] theorem State.setPending_valid (s : State) (ops : List HostOp) : (s.setPending ops).valid = s.valid := rfl
@[simp] theorem State.setPending_err (s : State) (ops : List HostOp) : (s.setPending ops).err = s.err := rfl
@[simp] theorem State.setPending_rounds (s : State) (ops : List HostOp) : (s.setPending ops).rounds = s.rounds := rfl
@[simp] theorem State.setPending_kLen (s : State) (ops : List HostOp) : (s.setPending ops).kLen = s.kLen := rfl
@[simp] theorem State.setPending_ek (s : State) (ops : List HostOp) : (s.setPending ops).ek = s.ek := rfl
@[simp] theorem State.setPending_dk (s : State) (ops : List HostOp) : (s.setPending ops).dk = s.dk := rfl
@[simp] theorem State.setPending_pending (s : State) (ops : List HostOp) : (s.setPending ops).pending = ops := rfl
@[simp] theorem State.setPending_returned (s : State) (ops : List HostOp) : (s.setPending ops).returned = s.returned := rfl

@[simp] theorem State.pushReturned_key (s : State) (v : Nat) : (s.pushReturned v).key = s.key := rfl
@[simp] theorem State.pushReturned_keyLen (s : State) (v : Nat) : (s.pushReturned v).keyLen = s.keyLen := rfl
@[simp] theorem State.pushReturned_len (s : State) (v : Nat) : (s.pushReturned v).len = s.len := rfl
@[simp] theorem State.pushReturned_inBuf (s : State) (v : Nat) : (s.pushReturned v).inBuf = s.inBuf := rfl
@[simp] theorem State.pushReturned_outBuf (s : State) (v : Nat) : (s.pushReturned v).outBuf = s.outBuf := rfl
@[simp] theorem State.pushReturned_valid (s : State) (v : Nat) : (s.pushReturned v).valid = s.valid := rfl
@[simp] theorem State.pushReturned_err (s : State) (v : Nat) : (s.pushReturned v).err = s.err := rfl
@[simp] theorem State.pushReturned_rounds (s : State) (v : Nat) : (s.pushReturned v).rounds = s.rounds := rfl
@[simp] theorem State.pushReturned_kLen (s : State) (v : Nat) : (s.pushReturned v).kLen = s.kLen := rfl
@[simp] theorem State.pushReturned_ek (s : State) (v : Nat) : (s.pushReturned v).ek = s.ek := rfl
@[simp] theorem State.pushReturned_dk (s : State) (v : Nat) : (s.pushReturned v).dk = s.dk := rfl
@[simp] theorem State.pushReturned_pending (s : State) (v : Nat) : (s.pushReturned v).pending = s.pending := rfl
@[simp] theorem State.pushReturned_returned (s : State) (v : Nat) : (s.pushReturned v).returned = v :: s.returned := rfl

@[simp] theorem succeed_key (s : State) : (succeed s).key = s.key := rfl
@[simp] theorem succeed_keyLen (s : State) : (succeed s).keyLen = s.keyLen := rfl
@[simp] theorem succeed_len (s : State) : (succeed s).len = s.len := rfl
@[simp] theorem succeed_inBuf (s : State) : (succeed s).inBuf = s.inBuf := rfl
@[simp] theorem succeed_outBuf (s : State) : (succeed s).outBuf = s.outBuf := rfl
@[simp] theorem succeed_valid (s : State) : (succeed s).valid = s.valid := rfl
@[simp] theorem succeed_err (s : State) : (succeed s).err = 0 := rfl
@[simp] theorem succeed_rounds (s : State) : (succeed s).rounds = s.rounds := rfl
@[simp] theorem succeed_kLen (s : State) : (succeed s).kLen = s.kLen := rfl
@[simp] theorem succeed_ek (s : State) : (succeed s).ek = s.ek := rfl
@[simp] theorem succeed_dk (s : State) : (succeed s).dk = s.dk := rfl
@[simp] theorem succeed_pending (s : State) : (succeed s).pending = s.pending := rfl
@[simp] theorem succeed_returned (s : State) : (succeed s).returned = s.returned := rfl

@[simp] theorem raise_key (e : ErrorKind) (s : State) : (raise e s).key = s.key := by cases e <;> rfl
@[simp] theorem raise_keyLen (e : ErrorKind) (s : State) : (raise e s).keyLen = s.keyLen := by cases e <;> rfl
@[simp] theorem raise_len (e : ErrorKind) (s : State) : (raise e s).len = s.len := by cases e <;> rfl
@[simp] theorem raise_inBuf (e : ErrorKind) (s : State) : (raise e s).inBuf = s.inBuf := by cases e <;> rfl
@[simp] theorem raise_outBuf (e : ErrorKind) (s : State) : (raise e s).outBuf = s.outBuf := by cases e <;> rfl
@[simp] theorem raise_valid (e : ErrorKind) (s : State) :
    (raise e s).valid = (decide (e ≠ .invalidKeyLength) && s.valid) := by cases e <;> rfl
@[simp] theorem raise_err (e : ErrorKind) (s : State) : (raise e s).err = e.code := by cases e <;> rfl
@[simp] theorem raise_rounds (e : ErrorKind) (s : State) : (raise e s).rounds = s.rounds := by cases e <;> rfl
@[simp] theorem raise_kLen (e : ErrorKind) (s : State) : (raise e s).kLen = s.kLen := by cases e <;> rfl
@[simp] theorem raise_ek (e : ErrorKind) (s : State) : (raise e s).ek = s.ek := by cases e <;> rfl
@[simp] theorem raise_dk (e : ErrorKind) (s : State) : (raise e s).dk = s.dk := by cases e <;> rfl
@[simp] theorem raise_pending (e : ErrorKind) (s : State) : (raise e s).pending = s.pending := by cases e <;> rfl
@[simp] theorem raise_returned (e : ErrorKind) (s : State) : (raise e s).returned = s.returned := by cases e <;> rfl

end Sys2Proof.Machine
end

