-- ==== Sys2Proof/WellFormed.lean ====
section
/-! DEFINITION. Which instructions and which host operations are well formed (spec/30_encoding.md R73, R76, R77). -/

namespace Sys2Proof

/-- R73: "All operands being implicit, no command word has an illegal operand": every instruction is well formed. -/
def Instr.wf : Instr → Bool
  | .construct => true
  | .encrypt => true
  | .decrypt => true

namespace Machine

/-- The width in bits of the register a number names (R23): `LEN` has `LENW` bits, every other register 8. A number
above 37 names no register and has no width. -/
def registerWidth (reg : Nat) : Option Nat :=
  if reg = 33 then some Config.lenW
  else if reg ≤ 37 then some 8
  else none

/-- A host operation is well formed when the value it writes fits the register it names. A `WR` to a number above 37 may
carry any value (DESIGN CHOICE, log entry 6, safe: the spec gives such a number no width and says the write is ignored,
R23, R76). Addresses and `IN` bytes fit by their types (R55). No step reads this predicate. -/
def HostOp.wf : HostOp → Bool
  | .wr reg value =>
    match registerWidth reg with
    | some width => decide (value < 2 ^ width)
    | none => true
  | .rd _ => true
  | .wri _ _ => true
  | .rdi _ => true
  | .rdo _ => true
  | .wriRdo _ => true

end Machine

end Sys2Proof
end

