-- ==== Sys2Proof/Laws/Commands.lean ====
section
/-! SUPPORT. Everything a command, a host operation and a step can do, said once. -/

namespace Sys2Proof.Machine

/-- The state CONSTRUCT leaves for a legal key length (R131). -/
def constructed (p : KeyParams) (s : State) : State :=
  succeed (s.install
    (KeyFile.writeFirst s.ek (encKey (keyWords p (masterKey s s.keyLen.toNat))) (p.rounds + 1))
    (KeyFile.writeFirst s.dk (decKey (keyWords p (masterKey s s.keyLen.toNat)) p.rounds) (p.rounds + 1))
    (BitVec.ofNat 8 p.rounds) s.keyLen)

/-- CONSTRUCT either raises InvalidKeyLength or installs the instance (R131). -/
theorem execConstruct_cases {s t : State} (h : execConstruct s = .next t) :
    (selectByLength s.keyLen.toNat = none ∧ t = raise .invalidKeyLength s) ∨
    ∃ p, selectByLength s.keyLen.toNat = some p ∧ t = constructed p s := by
  unfold execConstruct at h
  split at h <;> rename_i hp
  · exact .inl ⟨hp, by simpa using h.symm⟩
  · exact .inr ⟨_, hp, by simpa [constructed] using h.symm⟩

/-- The state ENCRYPT (with `EK`) or DECRYPT (with `DK`) leaves when it succeeds (R155, R158). -/
def crypted (file : KeyFile) (s : State) : State :=
  succeed (s.setOutBuf (cryptBlocks s.inBuf file s.rounds.toNat s.outBuf (s.len.toNat / 16)))

/-- ENCRYPT and DECRYPT raise NoInstance, raise InvalidInputLength, or write `OUT` (R155, R158, R186). -/
theorem cryptCommand_cases {file : KeyFile} {s t : State} (h : cryptCommand file s = .next t) :
    (s.valid = false ∧ t = raise .noInstance s) ∨
    (s.valid = true ∧ lengthAccepted s.len.toNat s.kLen.toNat = false ∧ t = raise .invalidInputLength s) ∨
    (s.valid = true ∧ lengthAccepted s.len.toNat s.kLen.toNat = true ∧ t = crypted file s) := by
  unfold cryptCommand at h
  split at h <;> rename_i hv
  · exact .inl ⟨hv, by simpa using h.symm⟩
  · have hv : s.valid = true := by simpa using hv
    split at h <;> rename_i hl
    · exact .inr (.inl ⟨hv, hl, by simpa using h.symm⟩)
    · exact .inr (.inr ⟨hv, by simpa using hl, by simpa [crypted] using h.symm⟩)

/-- The length check in words (R156). -/
theorem lengthAccepted_iff {len kLen : Nat} :
    lengthAccepted len kLen = true ↔ 0 < len ∧ kLen ∣ len ∧ 16 ∣ len := by
  simp only [lengthAccepted, Bool.not_eq_true', Bool.or_eq_false_iff, beq_eq_false_iff_ne, bne_eq_false_iff_eq,
    Nat.dvd_iff_mod_eq_zero, Nat.pos_iff_ne_zero, and_assoc]

/-- Whole blocks of an accepted length fit the buffer. -/
theorem blocks_fit (s : State) : 16 * (s.len.toNat / 16) ≤ Config.bufSize := by
  have := s.len.isLt
  have : s.len.toNat < Config.bufSize := this
  omega

/-- Every byte of `OUT` after a command that succeeds (R157). -/
theorem read_crypted (file : KeyFile) {s : State} (hw : Memory.wf s.outBuf) (a : Nat) :
    Memory.read (crypted file s).outBuf a =
      if a < 16 * (s.len.toNat / 16) then
        byteOf (crypt (Memory.readBlock s.inBuf (16 * (a / 16))) file s.rounds.toNat) (a % 16)
      else Memory.read s.outBuf a :=
  read_cryptBlocks hw _ _ _ (blocks_fit s) a

/-- A write to `KEY[n]` (R21, R23). -/
theorem writeReg_key {n : Nat} (h : n < 32) (v : Nat) (s : State) :
    writeReg n v s = .next (s.setKey ⟨n, h⟩ (BitVec.ofNat 8 v)) := by
  simp [writeReg, regOfNumber, h]

/-- A write to `KEYLEN` (R24). -/
theorem writeReg_keyLen (v : Nat) (s : State) : writeReg 32 v s = .next (s.setKeyLen (BitVec.ofNat 8 v)) := rfl

/-- A write to `LEN` (R27). -/
theorem writeReg_len (v : Nat) (s : State) : writeReg 33 v s = .next (s.setLen (BitVec.ofNat Config.lenW v)) := rfl

/-- A write to `CMD` issues the command (R28). -/
theorem writeReg_cmd (v : Nat) (s : State) : writeReg 34 v s = issue (BitVec.ofNat 8 v) s := rfl

/-- A write to a read-only register or to a number that names none is ignored (R23). -/
theorem writeReg_ignored {n : Nat} (h : 34 < n) (v : Nat) (s : State) : writeReg n v s = .next s := by
  have h1 : ¬ n < 32 := by omega
  have h2 : n ≠ 32 := by omega
  have h3 : n ≠ 33 := by omega
  have h4 : n ≠ 34 := by omega
  unfold writeReg regOfNumber
  simp only [h1, h2, h3, h4, dite_false, if_false]
  split_ifs <;> rfl

/-- A write to a number that names no register is well formed whatever it carries (log entry 6). -/
theorem wf_wr_of_no_register {n : Nat} (h : 37 < n) (v : Nat) : (HostOp.wr n v).wf = true := by
  simp [HostOp.wf, registerWidth, show n ≠ 33 by omega, show ¬ n ≤ 37 by omega]

/-- The round function at an even index (R151). -/
theorem roundAt_of_even {j : Nat} (h : j % 2 = 0) : roundAt j = roundOdd := by
  funext s rk; simp [roundAt, h]

/-- The round function at an odd index (R151). -/
theorem roundAt_of_odd {j : Nat} (h : j % 2 = 1) : roundAt j = roundEven := by
  funext s rk; simp [roundAt, h]

/-- The two round functions differ, so an index has one of them only: their values at zero (R120, R121). -/
theorem roundOdd_ne_roundEven : roundOdd ≠ roundEven := fun h =>
  absurd (congrFun (congrFun h 0) 0) (by decide +kernel)

/-- One more full round (R150). -/
theorem afterRounds_succ (file : KeyFile) (p : Block) (n : Nat) :
    afterRounds file p (n + 1) = roundAt n (afterRounds file p n) (file.entry n) := rfl

/-- What a host operation leaves: its command's outcome for a write to `CMD`, one of the plain updates otherwise (R76). -/
theorem perform_cases {op : HostOp} {s t : State} (h : perform op s = .next t) :
    (∃ v, op = .wr 34 v ∧ issue (BitVec.ofNat 8 v) s = .next t) ∨
    (∃ n v, ∃ hn : n < 32, op = .wr n v ∧ t = s.setKey ⟨n, hn⟩ (BitVec.ofNat 8 v)) ∨
    (∃ v, op = .wr 32 v ∧ t = s.setKeyLen (BitVec.ofNat 8 v)) ∨
    (∃ v, op = .wr 33 v ∧ t = s.setLen (BitVec.ofNat Config.lenW v)) ∨
    (∃ n v, 34 < n ∧ op = .wr n v ∧ t = s) ∨
    (∃ n, op = .rd n ∧ t = s.pushReturned (readReg s n)) ∨
    (∃ a v, op = .wri a v ∧ t = s.setIn a.toNat v) ∨
    (∃ a, op = .rdi a ∧ t = s.pushReturned (Memory.read s.inBuf a.toNat).toNat) ∨
    (∃ a, op = .rdo a ∧ t = s.pushReturned (Memory.read s.outBuf a.toNat).toNat) ∨
    (∃ a, op = .wriRdo a ∧
      t = (s.pushReturned (Memory.read s.outBuf a.toNat).toNat).setIn a.toNat (Memory.read s.outBuf a.toNat)) := by
  cases op with
  | wr n v =>
    change writeReg n v s = .next t at h
    rcases Nat.lt_trichotomy n 34 with hlt | rfl | hgt
    · by_cases hk : n < 32
      · rw [writeReg_key hk] at h
        exact .inr (.inl ⟨n, v, hk, rfl, (Host.Outcome.next.inj h).symm⟩)
      · by_cases h32 : n = 32
        · subst h32
          exact .inr (.inr (.inl ⟨v, rfl, (Host.Outcome.next.inj h).symm⟩))
        · obtain rfl : n = 33 := by omega
          exact .inr (.inr (.inr (.inl ⟨v, rfl, (Host.Outcome.next.inj h).symm⟩)))
    · exact .inl ⟨v, rfl, h⟩
    · rw [writeReg_ignored hgt] at h
      exact .inr (.inr (.inr (.inr (.inl ⟨n, v, hgt, rfl, (Host.Outcome.next.inj h).symm⟩))))
  | rd n => exact .inr (.inr (.inr (.inr (.inr (.inl ⟨n, rfl, (Host.Outcome.next.inj h).symm⟩)))))
  | wri a v => exact .inr (.inr (.inr (.inr (.inr (.inr (.inl ⟨a, v, rfl, (Host.Outcome.next.inj h).symm⟩))))))
  | rdi a => exact .inr (.inr (.inr (.inr (.inr (.inr (.inr (.inl ⟨a, rfl, (Host.Outcome.next.inj h).symm⟩)))))))
  | rdo a => exact .inr (.inr (.inr (.inr (.inr (.inr (.inr (.inr (.inl ⟨a, rfl, (Host.Outcome.next.inj h).symm⟩))))))))
  | wriRdo a =>
    exact .inr (.inr (.inr (.inr (.inr (.inr (.inr (.inr (.inr ⟨a, rfl, (Host.Outcome.next.inj h).symm⟩))))))))

/-- A command write runs the command it encodes or raises IllegalCommand (R28, R74). -/
theorem issue_cases {c : Byte} {s t : State} (h : issue c s = .next t) :
    (∃ i, decode c = .ok i ∧ exec i s = .next t) ∨
    (∃ e, decode c = .error e ∧ t = raise .illegalCommand s) := by
  unfold issue at h
  split at h
  · exact .inl ⟨_, ‹_›, h⟩
  · exact .inr ⟨_, ‹_›, by simpa using h.symm⟩

/-- A step is idle or performs the next host operation with that operation taken off the list (R76, R205). -/
theorem step_cases {s t : State} (h : step s = .next t) :
    (s.pending = [] ∧ t = s) ∨
    ∃ op rest, s.pending = op :: rest ∧ perform op (s.setPending rest) = .next t := by
  unfold step performNext at h
  split at h
  · exact .inl ⟨‹_›, by simpa using h.symm⟩
  · exact .inr ⟨_, _, ‹_›, h⟩

end Sys2Proof.Machine
end

