-- ==== Sys2Proof/Laws/PerInstr.lean ====
section
/-! SUPPORT. Statements made of every instruction, one lemma per constructor. -/

namespace Sys2Proof.Laws.CommandWord

/-- Every instruction is well formed and its command word is neither 0 nor wider than two bits (R72, R73). -/
def Statement (i : Instr) : Prop := i.wf = true ∧ 0 < (encode i).toNat ∧ (encode i).toNat < 4

theorem construct : Statement .construct := ⟨rfl, by decide, by decide⟩
theorem encrypt : Statement .encrypt := ⟨rfl, by decide, by decide⟩
theorem decrypt : Statement .decrypt := ⟨rfl, by decide, by decide⟩

end Sys2Proof.Laws.CommandWord
end

