-- ==== Sys2Proof/Tests/Slice0.lean ====
section
/-! SUPPORT. The model's own tests. Expected values are from spec/95_test_vectors.md (section numbers in the comments) and
from the rules named; the second half shows, for each statement with hypotheses, states that meet them. -/

namespace Sys2Proof.Tests

open Sys2Proof.Machine

/-! ## Helpers -/

def nextOf (o : Host.Outcome State Fault Refusal) : Option State :=
  match o with
  | .next t => some t
  | .fault _ => none
  | .refused _ => none

/-- Reset with a host program placed. -/
def hostState (ops : List HostOp) : State := { State.reset with pending := ops }

/-- The key `00 01 02 ...` in all 32 key registers. -/
def ascendingKey : Vector Byte 32 := Vector.ofFn fun i => BitVec.ofNat 8 i.val

/-- Reset with the ascending key, a `KEYLEN`, and the given blocks in `IN` with `LEN` their length. -/
def loaded (keyLen : Byte) (blocks : List Block) : State :=
  { State.reset with
    key := ascendingKey, keyLen := keyLen, len := BitVec.ofNat _ (16 * blocks.length)
    inBuf := (List.range blocks.length).foldl (fun m i => Memory.writeBlock m (16 * i) (blocks.getD i 0)) [] }

/-- The same after CONSTRUCT. -/
def constructedFrom (keyLen : Byte) (blocks : List Block) : State :=
  (nextOf (exec .construct (loaded keyLen blocks))).getD State.reset

/-- The first block of `OUT`, and `STATUS`, after a command. -/
def outAndStatus (i : Instr) (s : State) : Option (Block × Byte) :=
  (nextOf (exec i s)).map fun t => (Memory.readBlock t.outBuf 0, t.status)

/-- A valid instance whose round keys are all zero: every part of the invariant holds. -/
def zeroInstance (kLen rounds : Byte) (len : BitVec Config.lenW) : State :=
  { State.reset with valid := true, kLen := kLen, rounds := rounds, len := len, keyLen := kLen }

abbrev plain : Block := 0x00112233445566778899aabbccddeeff

/-! ## Well-formedness: an ill-formed term for each check, refused -/

theorem test_wf_register_value_too_wide : (HostOp.wr 32 256).wf = false := by decide
theorem test_wf_length_too_wide : (HostOp.wr 33 (2 ^ 16)).wf = false := by decide
theorem test_wf_read_only_value_too_wide : (HostOp.wr 37 256).wf = false := by decide
theorem test_wf_in_range : (HostOp.wr 0 255).wf = true ∧ (HostOp.wr 33 (2 ^ 16 - 1)).wf = true := by decide
/-- A number above 37 bounds no value (log entry 6). -/
theorem test_wf_no_register : (HostOp.wr 38 256).wf = true ∧ (HostOp.wr 40 300).wf = true := by decide
/-- R73: no command word has an illegal operand, so no instruction is ill formed; an ill-formed WORD is one the decoder
refuses. -/
theorem test_wf_instructions : ∀ i ∈ [Instr.construct, .encrypt, .decrypt], i.wf = true := by decide

/-! ## Decoding: the words of R72 written out, and reserved words refused by name -/

theorem test_decode_construct : decode 0b00000001 = .ok .construct := by rfl
theorem test_decode_encrypt : decode 0b00000010 = .ok .encrypt := by rfl
theorem test_decode_decrypt : decode 0b00000011 = .ok .decrypt := by rfl
theorem test_decode_reserved : decode 0x00 = .error (.reservedCode 0x00) ∧ decode 0x04 = .error (.reservedCode 0x04) ∧
    decode 0x7f = .error (.reservedCode 0x7f) ∧ decode 0xff = .error (.reservedCode 0xff) := ⟨rfl, rfl, rfl, rfl⟩
/-- All eight bits are read: one more bit set in a command's word makes it reserved. -/
theorem test_decode_reads_every_bit : ∀ k ∈ [2, 3, 4, 5, 6, 7], ∀ c ∈ [1#8, 2#8, 3#8],
    (match decode (c ||| (1#8 <<< k)) with | .ok _ => false | .error _ => true) = true := by decide
theorem test_decodeTableWord : decodeTableWord 8 1 = some .construct ∧ decodeTableWord 8 2 = some .encrypt ∧
    decodeTableWord 8 3 = some .decrypt ∧ decodeTableWord 8 4 = none := by decide

/-! ## Tables, layers and rounds (sections 3.1 to 3.5) -/

theorem test_tables : sb1 0x52 = 0x00 ∧ sb2 0x52 = 0x88 ∧ sb3 0x52 = 0x48 ∧ sb4 0x52 = 0xe6 ∧
    sb1 0xfe = 0xbb ∧ sb2 0xfe = 0xb5 ∧ sb3 0xfe = 0x0c ∧ sb4 0xfe = 0xac := by decide
theorem test_sl1 : sl1 0x000102030405060708090a0b0c0d0e0f = 0x634e6a1bf2c2a578300da3e1fe4dd73c ∧
    sl1 plain = 0x63fa94e31b83d319c402622f4b449960 := by decide +kernel
theorem test_sl2 : sl2 0x000102030405060708090a0b0c0d0e0f = 0x526877fc30b96fccbf3967468109abd1 ∧
    sl2 plain = 0x527e93fb862433269726ac8a27a12881 := by decide +kernel
theorem test_diffuse : diffuse plain = 0x3322110055447766aabb8899ccddeeff ∧
    diffuse 0x80000000000000000000000000000000 = 0x00000080800080008080000000808000 ∧
    diffuse 0x63fa94e31b83d319c402622f4b449960 = 0x30e35469669b812edd34c7a5c2a8ac30 := by decide +kernel
theorem test_rounds : roundOdd 0x000102030405060708090a0b0c0d0e0f c1 = 0x2afbea741e1746dd55c63ba1afcea0a5 ∧
    roundEven 0x000102030405060708090a0b0c0d0e0f c1 = 0x4c299225c0ca0354bb99d0de7d40f4b7 := by decide +kernel
theorem test_rol : rol 0x000102030405060708090a0b0c0d0e0f 19 = 0x10182028303840485058606870780008 ∧
    rol 0x80000000000000000000000000000001 61 = 0x00000000000000003000000000000000 ∧
    rol 0x000102030405060708090a0b0c0d0e0f 147 = 0x10182028303840485058606870780008 := by decide +kernel
theorem test_ror : ror 0x000102030405060708090a0b0c0d0e0f 19 = 0xa1c1e00020406080a0c0e10121416181 ∧
    ror 0x80000000000000000000000000000001 1 = 0xc0000000000000000000000000000000 ∧
    ror 0x000102030405060708090a0b0c0d0e0f 256 = 0x000102030405060708090a0b0c0d0e0f := by decide +kernel
theorem test_strings : rolString [0xa5, 0x3c] 3 = some [0x29, 0xe5] ∧ rorString [0xa5, 0x3c] 3 = some [0x94, 0xa7] ∧
    rolString [0xa5, 0x3c] 19 = some [0x29, 0xe5] ∧ rolString [0x81] 9 = some [0x03] ∧
    xorString [0xff, 0xee, 0xdd, 0xcc] [0x0f, 0x0f] = some [0xf0, 0xe1, 0xdd, 0xcc] := by decide +kernel

/-! ## The commands (sections 2.1 to 2.4 and 3.6 to 3.9) -/

/-- Section 2.1: round keys, and that `KEY[16..31]` is not read. -/
theorem test_construct_16 : ((nextOf (exec .construct (loaded 16 []))).map fun t =>
      (t.ek.entry 0, t.ek.entry 12, t.dk.entry 0, t.dk.entry 1, t.rounds, t.kLen, t.status)) =
    some (0xd415a75c794b85c5e0d2a0b3cb793bf6, 0x0f0aa16daee61bd7dfee5a599970fb35,
      0x0f0aa16daee61bd7dfee5a599970fb35, 0xccb3a0230b6dac1d53eef49d961aa57f, 12, 16, 0x01) := by decide +kernel
/-- Section 3.8: a 20-byte key fails, and an instance that was there is gone; its registers keep their bits (R131). -/
theorem test_construct_20 : ((nextOf (exec .construct { zeroInstance 16 12 16 with keyLen := 20 })).map fun t =>
      (t.status, t.rounds, t.kLen)) = some (0x02, 12, 16) := by decide +kernel
/-- Sections 2.1 and 2.3: one block under a 16-byte key, the first of two under a 32-byte key. -/
theorem test_encrypt : outAndStatus .encrypt (constructedFrom 16 [plain]) =
      some (0xd718fbd6ab644c739da95f3be6451778, 0x01) ∧
    outAndStatus .encrypt (constructedFrom 32 [plain, plain]) =
      some (0xf92bd7c79fb72e2f2b8f80c1972d24fc, 0x01) := by decide +kernel
/-- Section 3.8: 24 bytes under a 24-byte key are refused, and `OUT` keeps its byte. -/
theorem test_encrypt_bad_length : outAndStatus .encrypt { zeroInstance 24 14 24 with outBuf := [(0, 0x5a)] } =
    some (0x5a000000000000000000000000000000, 0x05) := by decide +kernel
/-- Section 3.7. -/
theorem test_decrypt : outAndStatus .decrypt (constructedFrom 16 [plain]) =
      some (0x8095a522265661eac38c16be69e4ec37, 0x01) ∧
    outAndStatus .decrypt (constructedFrom 16 [0xd718fbd6ab644c739da95f3be6451778]) = some (plain, 0x01) := by
  decide +kernel
/-- Section 3.9. -/
theorem test_decrypt_no_instance : outAndStatus .decrypt (loaded 16 [plain]) = some (0, 0x08) := by decide +kernel
/-- R160: the twelve small steps of one block end with the block of `OUT` that the command leaves. -/
theorem test_small_steps : let s := constructedFrom 16 [plain]
    Memory.readBlock (iterRun s.inBuf s.ek 12 1 12 (iterStart s.inBuf [])).out 0 =
      0xd718fbd6ab644c739da95f3be6451778 := by decide +kernel

/-! ## The host port (R23, R74, R76, R77) -/

theorem test_withFetchWord : (nextOf (step (State.reset.withFetchWord 8 2))).map (·.status) = some 0x08 := by decide
theorem test_reserved_code : (nextOf (step (hostState [.wr 34 0x7f]))).map (·.status) = some 0x0a := by decide
theorem test_ignored_writes : nextOf (step (hostState [.wr 35 1])) = some State.reset ∧
    nextOf (step (hostState [.wr 38 1])) = some State.reset := by decide
theorem test_cmd_reads_zero : (nextOf (step (hostState [.rd 34]))).map (·.returned) = some [0] := by decide
theorem test_loadKey : loadKey [0xa0, 0xa1] = some [.wr 0 0xa0, .wr 1 0xa1, .wr 32 2] ∧
    loadKey (List.replicate 33 0) = none := by decide
theorem test_loadIn : loadIn [0xb0, 0xb1] = some [.wri 0 0xb0, .wri 1 0xb1, .wr 33 2] := by decide
theorem test_out2In : out2In 2 = some [.wriRdo 0, .wriRdo 1, .wr 33 2] ∧ out2In (2 ^ 16) = none := by decide
theorem test_cmdOp : cmdOp .construct = .wr 34 0x01 ∧ cmdOp .decrypt = .wr 34 0x03 := by decide

/-! ## Witnesses: for each statement with hypotheses, states that meet them -/

theorem witness_CommandCodesDecodeAsTabled : (0x00 : Byte) ≠ 0x01 ∧ (0x04 : Byte) ≠ 0x03 ∧ (0xff : Byte) ≠ 0x02 := by decide
theorem witness_DecodeInvertsEncode : decode 0x03 = .ok .decrypt := by rfl
theorem witness_StepRunsDecodedCommand : (hostState [.wr 34 1]).pending = .wr 34 1 :: [] ∧
    decode (BitVec.ofNat 8 1) = .ok .construct ∧ decodeTableWord 8 2 = some .encrypt := ⟨rfl, rfl, rfl⟩
theorem witness_ReservedCodeRaisesIllegalCommand : (hostState [.wr 34 0]).pending = .wr 34 0 :: [] ∧
    (4 ≤ 4 ∧ 4 ≤ 0xff) ∧ 4 ≤ 0xff ∧ 0xff ≤ 0xff := by decide
theorem witness_IdleEngineKeepsState : State.reset.pending = [] := by rfl
/-- One boundary value of each clause: `KEY[31]`, `KEYLEN`, `LEN` at their largest, each command, a reserved code, the first
read-only number, the first number that names nothing. -/
theorem witness_HostOperationsActAsTabled :
    (nextOf (step (hostState [.wr 31 255]))).map (·.key[31]) = some 255 ∧
    (nextOf (step (hostState [.wr 32 255]))).map (·.keyLen) = some 255 ∧
    (nextOf (step (hostState [.wr 33 (2 ^ 16 - 1)]))).map (·.len) = some 65535 ∧
    (nextOf (step (hostState [.wr 34 1]))).map (·.err) = some 1 ∧
    (nextOf (step (hostState [.wr 34 255]))).map (·.err) = some 5 ∧
    (nextOf (step (hostState [.wr 35 255]))) = some State.reset ∧
    (nextOf (step (hostState [.wr 38 255]))) = some State.reset ∧
    (nextOf (step (hostState [.wri 65535 7]))).map (·.inBuf) = some [(65535, 7)] := by decide
theorem witness_RegisterNumbersReadAsTabled : let s := { State.reset with key := ascendingKey, err := 4, rounds := 12 }
    readReg s 0 = 0 ∧ readReg s 31 = 31 ∧ readReg s 35 = 8 ∧ readReg s 36 = 12 ∧ readReg s 38 = 0 := by decide
/-- A read of the address just written, and of another. -/
theorem witness_InputReadsReturnLatestWrite : Memory.wf (hostState [.wri 3 7, .rdi 3]).inBuf ∧
    step (hostState [.wri 3 7, .rdi 3]) = .next { hostState [.rdi 3] with inBuf := [(3, 7)] } ∧
    step { hostState [.rdi 3] with inBuf := [(3, 7)] } = .next { State.reset with inBuf := [(3, 7)], returned := [7] } ∧
    step { hostState [.rdi 4] with inBuf := [(3, 7)] } = .next { State.reset with inBuf := [(3, 7)], returned := [0] } :=
  ⟨by decide, rfl, rfl, rfl⟩
/-- Each element changes in some step: `KEY`, `KEYLEN`, `LEN`, `IN`, `VALID`, `ERR`, and by commands `OUT` and the instance. -/
theorem witness_OnlyTabledWritersChangeState :
    (nextOf (step (hostState [.wr 0 1]))).map (·.key[0]) = some 1 ∧
    (nextOf (step (hostState [.wr 32 1]))).map (·.keyLen) = some 1 ∧
    (nextOf (step (hostState [.wr 33 1]))).map (·.len) = some 1 ∧
    (nextOf (step { hostState [.wriRdo 2] with outBuf := [(2, 9)] })).map (·.inBuf) = some [(2, 9)] ∧
    (nextOf (step { zeroInstance 16 12 16 with pending := [.wr 34 2] })).map (fun t => decide (t.outBuf = [])) = some false ∧
    (nextOf (step { loaded 16 [] with pending := [.wr 34 1] })).map (fun t => (t.valid, t.err, t.rounds, t.kLen,
      decide (t.ek.entry 0 = 0), decide (t.dk.entry 0 = 0))) = some (true, 0, 12, 16, false, false) := by decide +kernel
theorem witness_HostCannotReachRoundKeys : (hostState [.rd 36]).pending = .rd 36 :: [] ∧
    (∀ v, HostOp.rd 36 ≠ .wr 34 v) ∧ step (hostState [.rd 36]) = .next { State.reset with returned := [0] } :=
  ⟨rfl, by simp, rfl⟩
theorem witness_EveryCommandWriteOverwritesErr : nextOf (issue 2 { State.reset with err := 7 }) =
    some { State.reset with err := 4 } := by decide
/-- One position of each table's class, the last ones. -/
theorem witness_SubstitutionUsesTabledTable : (12 < 16 ∧ 12 % 4 = 0) ∧ (13 < 16 ∧ 13 % 4 = 1) ∧ (14 < 16 ∧ 14 % 4 = 2) ∧
    (15 < 16 ∧ 15 % 4 = 3) := by decide
/-- The last row and column of the matrix: M[15][15] = 1 and M[15][14] = 0. -/
theorem witness_DiffusionMatrixIsTabled : 15 < 16 ∧ 15 ∈ diffusionIndex.getD 15 [] ∧ 14 ∉ diffusionIndex.getD 15 [] := by
  decide
theorem witness_DiffusionXorsSevenBytes : 15 < 16 ∧ diffusionIndex[15]? = some [1, 2, 4, 5, 8, 10, 15] := by decide
theorem witness_BlocksLieLeftmostByteFirst : 15 < 16 ∧ byteOf 1 15 = 1 ∧ 127 < 128 ∧ bitAt 1 127 = true := by decide
theorem witness_RotationMovesBitPositions : 127 < 128 ∧ bitAt (rol 0x80000000000000000000000000000000 1) 127 = true := by
  decide
/-- For StringRotationBytewise and RotationIdentities. -/
theorem witness_string_rotations : [0x81#8] ≠ [] ∧ [0x01#8].length = [0x81#8].length := by decide
theorem witness_StringXorCopiesBeyondShorterOperand : [0x0f#8].length ≤ [0xff#8, 0xee].length ∧
    [0x0f#8].length < [0xff#8, 0xee].length := by decide
theorem witness_CandidatesFollowClosedForm : 1 ∈ List.range' 1 17 ∧ 17 ∈ List.range' 1 17 := by decide
theorem witness_RoundControllerAlternates : 0 % 2 = 0 ∧ 1 % 2 = 1 := by decide
/-- The first and the last full round of R = 16, and two key files that agree up to 16. -/
theorem witness_RoundCountsPerKind : (16, 8, 7) ∈ [(12, 6, 5), (14, 7, 6), (16, 8, 7)] ∧ 0 < 16 - 1 ∧ 14 < 16 - 1 ∧
    ∀ i ≤ 16, State.reset.ek.entry i = State.reset.dk.entry i := by decide
/-- With no instance the premise holds of every block; the step then installs one. -/
theorem witness_EveryStepKeepsDecryption : State.decryptionInv { loaded 16 [] with pending := [.wr 34 1] } ∧
    (nextOf (step { loaded 16 [] with pending := [.wr 34 1] })).map (·.valid) = some true :=
  ⟨fun h => absurd h (by decide), by decide +kernel⟩
theorem witness_CryptIgnoresKeyRegisters : (nextOf (exec .encrypt (zeroInstance 16 12 16))).isSome = true ∧
    (nextOf (exec .decrypt (zeroInstance 16 12 16))).isSome = true := by decide +kernel
/-- Each key length: `KEYLEN` of a state and the parameters it selects. -/
theorem witness_ConstructInstallsInstance :
    ((loaded 16 []).keyLen.toNat, (⟨12, c1, c2, c3⟩ : KeyParams)) ∈
      [(16, ⟨12, c1, c2, c3⟩), (24, ⟨14, c2, c3, c1⟩), (32, ⟨16, c3, c1, c2⟩)] ∧
    ((loaded 24 []).keyLen.toNat, (⟨14, c2, c3, c1⟩ : KeyParams)) ∈
      [(16, ⟨12, c1, c2, c3⟩), (24, ⟨14, c2, c3, c1⟩), (32, ⟨16, c3, c1, c2⟩)] ∧
    ((loaded 32 []).keyLen.toNat, (⟨16, c3, c1, c2⟩ : KeyParams)) ∈
      [(16, ⟨12, c1, c2, c3⟩), (24, ⟨14, c2, c3, c1⟩), (32, ⟨16, c3, c1, c2⟩)] := by decide
theorem witness_ConstructRefusesOtherLengths : ∀ n ∈ [0#8, 15#8, 17#8, 23#8, 25#8, 31#8, 33#8, 255#8],
    (loaded n []).keyLen ≠ 16 ∧ (loaded n []).keyLen ≠ 24 ∧ (loaded n []).keyLen ≠ 32 := by decide
/-- A CONSTRUCT that succeeds and one that raises. -/
theorem witness_ConstructFrame : (nextOf (exec .construct (loaded 24 []))).map (·.err) = some 0 ∧
    (nextOf (exec .construct (loaded 23 []))).map (·.err) = some 1 := by decide +kernel
/-- Keys that differ above `KEYLEN` only, and an illegal `KEYLEN`. -/
theorem witness_ConstructReadsOnlyPresentedKey :
    (∀ i, (h : i < 32) → i < (loaded 16 []).keyLen.toNat → (ascendingKey.set 16 0)[i] = (loaded 16 []).key[i]) ∧
    ascendingKey.set 16 0 ≠ ascendingKey ∧ selectByLength (loaded 20 []).keyLen.toNat = none ∧
    (nextOf (exec .construct (loaded 16 []))).isSome = true := by decide +kernel
theorem witness_KeySplitUsesEveryByte : ∀ n ∈ [16, 24, 32], (List.replicate n (1 : Byte)).length ∈ [16, 24, 32] := by decide
theorem witness_KeyLengthSelectsRounds : (selectByLength 24).map (·.rounds) = some 14 := by decide
theorem witness_AcceptedLengths : lengthAccepted 16 16 = true ∧ lengthAccepted 0 16 = false ∧
    lengthAccepted 48 24 = true ∧ lengthAccepted 24 24 = false ∧ lengthAccepted 72 24 = false ∧
    lengthAccepted 32 32 = true ∧ lengthAccepted 48 32 = false := by decide
/-- The smallest accepted length of each key length, for both EncryptWritesEveryBlock and DecryptWritesEveryBlock, and the
premises of EncryptAndDecryptFrame, CommandsRoundTrip and DriverStepsComposeToCommand. -/
theorem witness_crypt_premises : ∀ s ∈ [zeroInstance 16 12 16, zeroInstance 24 14 48, zeroInstance 32 16 32],
    s.Inv ∧ Memory.wf s.outBuf ∧ s.valid = true ∧ lengthAccepted s.len.toNat s.kLen.toNat = true ∧
    2 ≤ s.rounds.toNat := by decide +kernel
/-- NoInstance, and each clause of the length check with an instance. -/
theorem witness_CryptErrorsInOrder : State.reset.valid = false ∧ (zeroInstance 16 12 0).len.toNat = 0 ∧
    (zeroInstance 32 16 48).len.toNat % 32 ≠ 0 ∧ (zeroInstance 24 14 24).len.toNat % 16 ≠ 0 ∧
    (zeroInstance 24 14 24).valid = true := by decide
/-- Two states with one round-key file each, two blocks and one block, equal blocks at 1 and at 0. -/
theorem witness_BlocksAreIndependent :
    let s := { zeroInstance 16 12 32 with inBuf := [(16, 5)] }
    let s' := { zeroInstance 16 12 16 with inBuf := [(0, 5)] }
    Memory.wf s.outBuf ∧ Memory.wf s'.outBuf ∧ s'.ek = s.ek ∧ s'.dk = s.dk ∧ s'.rounds = s.rounds ∧
    (nextOf (exec .encrypt s)).map (·.err) = some 0 ∧ (nextOf (exec .encrypt s')).map (·.err) = some 0 ∧
    1 < s.len.toNat / 16 ∧ 0 < s'.len.toNat / 16 ∧
    ∀ k < 16, Memory.read s.inBuf (16 * 1 + k) = Memory.read s'.inBuf (16 * 0 + k) := by decide +kernel
theorem witness_DecryptionInvertsEncryption : (nextOf (exec .construct (loaded 32 []))).map (·.err) = some 0 := by
  decide +kernel
/-- Both commands succeed; the copied input may be `OUT` itself. -/
theorem witness_CommandsRoundTrip : (zeroInstance 16 12 16).Inv ∧
    (nextOf (exec .encrypt (zeroInstance 16 12 16))).map (·.err) = some 0 ∧
    (nextOf (exec .decrypt (zeroInstance 16 12 16))).map (·.err) = some 0 := by decide +kernel
theorem witness_RepeatedCommandChangesNothing : Memory.wf State.reset.outBuf ∧
    nextOf (exec .encrypt State.reset) = some { State.reset with err := 4 } := by decide
theorem witness_ErrorCodesAsTabled : nextOf (issue 0 State.reset) = some { State.reset with err := 5 } ∧
    nextOf (issue 2 State.reset) = some { State.reset with err := 4 } := by decide
/-- With no instance: a CONSTRUCT that succeeds, in two states that differ in `EK` and `ROUNDS`. -/
theorem witness_NoInstanceHidesItsRegisters : (loaded 16 []).valid = false ∧
    (nextOf (exec .construct (loaded 16 []))).map (·.valid) = some true ∧
    (nextOf (exec .construct { loaded 16 [] with ek := Vector.replicate 17 1, rounds := 99 })).map (·.valid) =
      some true := by decide +kernel
/-- `State.reset`, and a state reset may leave that differs from it in every unspecified register. -/
theorem witness_afterReset : State.reset.afterReset ∧ State.reset.Inv ∧
    State.afterReset { loaded 77 [plain] with
      rounds := 3, kLen := 9, ek := Vector.replicate 17 1, dk := Vector.replicate 17 2, outBuf := [(65535, 1)] } := by decide +kernel
theorem witness_EveryStepKeepsInvariant : ({ zeroInstance 16 12 16 with pending := [.wr 34 3] } : State).Inv ∧
    (nextOf (step { zeroInstance 16 12 16 with pending := [.wr 34 3] })).isSome = true := by decide +kernel
theorem witness_Reachable : Reachable (hostState [.wr 34 1]) := .afterReset _ (by decide)
/-- A run reaches an instance: one host operation from a reset state whose key registers hold the ascending key. -/
theorem witness_ReachableInstance : (nextOf (step { loaded 16 [] with pending := [.wr 34 1] })).map (·.valid) = some true ∧
    ({ loaded 16 [] with pending := [.wr 34 1] } : State).afterReset := by decide +kernel

end Sys2Proof.Tests
end

section
/-! Proofs about the encoding and the host port: the reserved codes, the step a pending host operation makes, and the
obligations O1, O4 and O7 (spec/30_encoding.md R72, R74, R76, R77). -/

namespace Sys2Proof.Machine

/-! ## The decoder -/

/-- A code other than the three of R72 is reserved (R74). -/
theorem decode_reserved {c : Byte} (h1 : c ≠ 0x01) (h2 : c ≠ 0x02) (h3 : c ≠ 0x03) :
    decode c = .error (.reservedCode c) := by
  rw [decode, if_neg h1, if_neg h2, if_neg h3]

/-- The numbers R74 lists are reserved codes: as bytes they are none of 1, 2 and 3. -/
theorem decode_reserved_number {v : Nat} (hv : v = 0 ∨ 4 ≤ v ∧ v ≤ 0xff) :
    decode (BitVec.ofNat 8 v) = .error (.reservedCode (BitVec.ofNat 8 v)) := by
  have hlt : v % 2 ^ 8 = v := Nat.mod_eq_of_lt (by omega)
  have ne (k : Nat) (hk : v ≠ k % 2 ^ 8) : BitVec.ofNat 8 v ≠ BitVec.ofNat 8 k := fun h =>
    hk (by simpa only [BitVec.toNat_ofNat, hlt] using congrArg BitVec.toNat h)
  exact decode_reserved (ne 1 (by omega)) (ne 2 (by omega)) (ne 3 (by omega))

/-- Settles O1: the three codes by evaluation, every other byte by the decoder's last branch. -/
theorem commandCodesDecodeAsTabled : Obligations.CommandCodesDecodeAsTabled :=
  ⟨rfl, rfl, rfl, fun _ => decode_reserved⟩

/-! ## Writes to `CMD` -/

/-- A write of a command's code to `CMD` is that command (R28). -/
theorem issue_of_decode_ok {c : Byte} {i : Instr} (h : decode c = .ok i) (s : State) : issue c s = exec i s := by
  rw [issue, h]

/-- A write of a reserved code to `CMD` sets `ERR` to the code of IllegalCommand (R74, R184). -/
theorem issue_of_decode_error {c : Byte} {e : DecodeError} (h : decode c = .error e) (s : State) :
    issue c s = .next (s.setErr 5) := by
  rw [issue, h]
  rfl

/-! ## The step of a pending host operation -/

/-- With a host operation pending, a step takes it off the list and performs it (R76). -/
theorem step_of_pending {s : State} {op : HostOp} {rest : List HostOp} (h : s.pending = op :: rest) :
    step s = perform op (s.setPending rest) := by
  rw [step, performNext, h]

/-- With a register write pending, a step writes the register. -/
theorem step_of_pending_wr {s : State} {n v : Nat} {rest : List HostOp} (h : s.pending = .wr n v :: rest) :
    step s = writeReg n v (s.setPending rest) :=
  step_of_pending h

/-- With a write to `CMD` pending, a step issues the code written (R28). -/
theorem step_of_pending_cmd {s : State} {v : Nat} {rest : List HostOp} (h : s.pending = .wr 34 v :: rest) :
    step s = issue (BitVec.ofNat 8 v) (s.setPending rest) :=
  (step_of_pending_wr h).trans (writeReg_cmd v _)

/-- Settles O4: the written number decodes to no command, so the step issues a reserved code. -/
theorem reservedCodeRaisesIllegalCommand : Obligations.ReservedCodeRaisesIllegalCommand := by
  intro s v rest hp hv
  rw [step_of_pending_cmd hp, issue_of_decode_error (decode_reserved_number hv)]
  rfl

/-! ## Register reads -/

/-- `CMD` reads as 0 (R23). -/
@[simp] theorem readReg_cmd (s : State) : readReg s 34 = 0 := rfl

/-- A number above 37 names no register (R23). -/
theorem regOfNumber_of_gt {n : Nat} (h : 37 < n) : regOfNumber n = none := by
  unfold regOfNumber
  rw [dif_neg (by omega), if_neg (by omega), if_neg (by omega), if_neg (by omega), if_neg (by omega),
    if_neg (by omega), if_neg (by omega)]

/-- A number that names no register reads as 0 (R23). -/
theorem readReg_of_gt (s : State) {n : Nat} (h : 37 < n) : readReg s n = 0 := by
  rw [readReg, regOfNumber_of_gt h]

/-- Settles O7: every clause is the step of the pending operation followed by what that operation does. The register
writes are the `writeReg_` laws, a `CMD` write splits on what its code decodes to, and the reads and the buffer
accesses are the arms of `perform`. -/
theorem hostOperationsActAsTabled : Obligations.HostOperationsActAsTabled := by
  intro s rest
  refine ⟨?key, ?keyLen, ?len, ?cmd, ?ignored, ?rd, ?readsZero, ?wri, ?rdi, ?rdo, ?wriRdo⟩
  case key => exact fun n v h _ => (step_of_pending_wr rfl).trans (writeReg_key h v _)
  case keyLen => exact fun v _ => (step_of_pending_wr rfl).trans (writeReg_keyLen v _)
  case len => exact fun v _ => (step_of_pending_wr rfl).trans (writeReg_len v _)
  case cmd =>
    intro v _
    rw [step_of_pending_cmd rfl]
    cases h : decode (BitVec.ofNat 8 v) with
    | ok i => exact issue_of_decode_ok h _
    | error e => exact issue_of_decode_error h _
  case ignored => exact fun n v h => (step_of_pending_wr rfl).trans (writeReg_ignored h v _)
  case rd => exact fun n => (step_of_pending rfl).trans rfl
  case readsZero => exact ⟨readReg_cmd s, fun _ => readReg_of_gt s⟩
  case wri => exact fun a v => (step_of_pending rfl).trans rfl
  case rdi => exact fun a => (step_of_pending rfl).trans rfl
  case rdo => exact fun a => (step_of_pending rfl).trans rfl
  case wriRdo => exact fun a => (step_of_pending rfl).trans rfl

end Sys2Proof.Machine
end

section
/-! The ROM read by row and column, and the table entries the document prints (spec/40_constant_tables.md R90 and
R97). -/

namespace Sys2Proof.Machine

/-- An entry is read from the row its high nibble selects, at the column its low nibble selects (R90). -/
theorem romEntry_of_row {rows : List Block} {v : Byte} {row : Block} (h : rows[v.toNat / 16]? = some row) :
    romEntry rows v = byteOf row (v.toNat % 16) := by
  rw [romEntry, List.getD_eq_getElem?_getD, h, Option.getD_some]

/-- `SB1(0x23)`: column 3 of row 2. -/
theorem sb1_0x23 : sb1 0x23 = 0x26 :=
  calc sb1 0x23
    _ = byteOf 0xb7fd9326363ff7cc34a5e5f171d83115 3 := romEntry_of_row rfl
    _ = 0x26 := by decide

/-- `SB4(0xEF)`: column 15 of row 14. -/
theorem sb4_0xef : sb4 0xef = 0xd3 :=
  calc sb4 0xef
    _ = byteOf 0xf2b10094379fd02e9c6e283f80f03dd3 15 := romEntry_of_row rfl
    _ = 0xd3 := by decide

/-- Settles O15: each entry is read off the printed row that its index selects. -/
theorem tableSpotValues : Obligations.TableSpotValues := ⟨sb1_0x23, sb4_0xef⟩

end Sys2Proof.Machine
end

section
/-! The substitution layers read byte by byte (spec/41_substitution_layer.md R100, R101 and R103). -/

namespace Sys2Proof.Machine

/-- Byte `i` of `SL1(x)` depends on byte `i` of `x` alone (R100, R103). -/
@[simp] theorem byteOf_sl1 (x : Block) {i : Nat} (hi : i < 16) : byteOf (sl1 x) i = sl1Table i (byteOf x i) :=
  byteOf_blockOf _ hi

/-- Byte `i` of `SL2(x)` depends on byte `i` of `x` alone (R101, R103). -/
@[simp] theorem byteOf_sl2 (x : Block) {i : Nat} (hi : i < 16) : byteOf (sl2 x) i = sl2Table i (byteOf x i) :=
  byteOf_blockOf _ hi

/-- The tables of `SL1` repeat every four positions (R103). -/
theorem sl1Table_congr {i k : Nat} (h : i % 4 = k % 4) : sl1Table i = sl1Table k := by
  funext v
  rw [sl1Table, sl1Table, h]

/-- The tables of `SL2` repeat every four positions (R103). -/
theorem sl2Table_congr {i k : Nat} (h : i % 4 = k % 4) : sl2Table i = sl2Table k := by
  funext v
  rw [sl2Table, sl2Table, h]

/-- At position `i` each layer applies the table it has at any position `k` of the same class modulo 4. -/
theorem byteOf_layers_of_mod_eq (x : Block) {i k : Nat} (hi : i < 16) (h : i % 4 = k % 4) :
    byteOf (sl1 x) i = sl1Table k (byteOf x i) ∧ byteOf (sl2 x) i = sl2Table k (byteOf x i) := by
  rw [byteOf_sl1 x hi, byteOf_sl2 x hi, sl1Table_congr h, sl2Table_congr h]
  exact ⟨rfl, rfl⟩

/-- Settles O16: the tables of a position are those of its class's representative 0, 1, 2 or 3, where `sl1Table` and
`sl2Table` evaluate to the tables named. -/
theorem substitutionUsesTabledTable : Obligations.SubstitutionUsesTabledTable := by
  intro x i hi
  refine ⟨?mod0, ?mod1, ?mod2, ?mod3⟩
  case mod0 => exact byteOf_layers_of_mod_eq x (k := 0) hi
  case mod1 => exact byteOf_layers_of_mod_eq x (k := 1) hi
  case mod2 => exact byteOf_layers_of_mod_eq x (k := 2) hi
  case mod3 => exact byteOf_layers_of_mod_eq x (k := 3) hi

end Sys2Proof.Machine
end

section
/-! The diffusion layer: its index sets, its output bytes and its linearity, and the obligations O18 and O19
(spec/42_diffusion_layer.md R110 and R111). -/

namespace Sys2Proof.Machine

/-! ## The index sets -/

/-- Each of the printed sets has seven members, which are byte positions (R111). -/
theorem seven_positions_of_mem_diffusionIndex :
    ∀ positions ∈ diffusionIndex, positions.length = 7 ∧ positions.Nodup ∧ ∀ j ∈ positions, j < 16 := by
  decide

/-- There are sixteen index sets, so `IDX[i]` is the entry at `i`. -/
theorem getElem?_diffusionIndex {i : Nat} (hi : i < 16) : diffusionIndex[i]? = some (diffusionIndex.getD i []) := by
  have h : i < diffusionIndex.length := hi
  rw [List.getD_eq_getElem _ _ h, List.getElem?_eq_getElem h]

/-- Every row of the matrix has seven 1s, in the sixteen columns (R111). -/
theorem seven_positions_of_row {i : Nat} (hi : i < 16) :
    (diffusionIndex.getD i []).length = 7 ∧ (diffusionIndex.getD i []).Nodup ∧ ∀ j ∈ diffusionIndex.getD i [], j < 16 :=
  seven_positions_of_mem_diffusionIndex _ (List.mem_of_getElem? (getElem?_diffusionIndex hi))

/-- The matrix is symmetric (R111). -/
theorem mem_diffusionIndex_comm :
    ∀ i < 16, ∀ j < 16, j ∈ diffusionIndex.getD i [] ↔ i ∈ diffusionIndex.getD j [] := by
  decide

/-- By symmetry the rows that meet column `j` are the members of row `j`. -/
theorem column_perm_row {j : Nat} (hj : j < 16) :
    ((List.range 16).filter fun i => j ∈ diffusionIndex.getD i []).Perm (diffusionIndex.getD j []) := by
  obtain ⟨-, hnodup, hlt⟩ := seven_positions_of_row hj
  refine (List.perm_ext_iff_of_nodup (List.nodup_range.filter _) hnodup).2 fun i => ?_
  rw [List.mem_filter, List.mem_range, decide_eq_true_iff]
  constructor
  · rintro ⟨hi, hmem⟩
    exact (mem_diffusionIndex_comm i hi j hj).1 hmem
  · intro hmem
    exact ⟨hlt i hmem, (mem_diffusionIndex_comm i (hlt i hmem) j hj).2 hmem⟩

/-- Settles O18: the 256 entries are compared with the printed ones, and a column counts as many rows as the row of the
same number has members. -/
theorem diffusionMatrixIsTabled : Obligations.DiffusionMatrixIsTabled := by
  refine ⟨?entries, ?rows, ?columns, ?symmetric⟩
  case entries => decide
  case rows => exact fun i hi => seven_positions_of_row hi
  case columns => exact fun j hj => (column_perm_row hj).length_eq.trans (seven_positions_of_row hj).1
  case symmetric => exact mem_diffusionIndex_comm

/-! ## The XOR over a set of positions -/

@[simp] theorem xorAt_nil (x : Block) : xorAt x [] = 0 := rfl

@[simp] theorem xorAt_cons (x : Block) (j : Nat) (positions : List Nat) :
    xorAt x (j :: positions) = byteOf x j ^^^ xorAt x positions := rfl

/-- The XOR over a set of seven positions, written out. -/
theorem xorAt_of_length_seven (x : Block) {positions : List Nat} (h : positions.length = 7) :
    ∃ j1 j2 j3 j4 j5 j6 j7, positions = [j1, j2, j3, j4, j5, j6, j7] ∧
      xorAt x positions =
        byteOf x j1 ^^^ byteOf x j2 ^^^ byteOf x j3 ^^^ byteOf x j4 ^^^ byteOf x j5 ^^^ byteOf x j6 ^^^ byteOf x j7 := by
  match positions, h with
  | [j1, j2, j3, j4, j5, j6, j7], _ =>
    exact ⟨j1, j2, j3, j4, j5, j6, j7, rfl, by simp [BitVec.xor_assoc]⟩

/-- The XOR over a set of positions is linear in the block. -/
theorem xorAt_xor (x z : Block) (positions : List Nat) :
    xorAt (x ^^^ z) positions = xorAt x positions ^^^ xorAt z positions := by
  induction positions with
  | nil => exact BitVec.xor_self.symm
  | cons j positions ih =>
    rw [xorAt_cons, xorAt_cons, xorAt_cons, byteOf_xor, ih]
    ac_rfl

/-- Equal bytes cancel in pairs: an odd number of them leaves one. -/
theorem xorAt_of_const {x : Block} {v : Byte} {positions : List Nat} (h : ∀ j ∈ positions, byteOf x j = v) :
    xorAt x positions = if positions.length % 2 = 1 then v else 0 := by
  induction positions with
  | nil => rfl
  | cons j positions ih =>
    obtain ⟨hj, hrest⟩ := List.forall_mem_cons.1 h
    rw [xorAt_cons, hj, ih hrest, List.length_cons]
    rcases Nat.mod_two_eq_zero_or_one positions.length with hp | hp <;>
      simp [hp, Nat.add_mod]

/-! ## The layer -/

/-- Byte `i` of `A(x)` is the XOR over the index set `IDX[i]` (R110). -/
@[simp] theorem byteOf_diffuse (x : Block) {i : Nat} (hi : i < 16) :
    byteOf (diffuse x) i = xorAt x (diffusionIndex.getD i []) :=
  byteOf_blockOf _ hi

/-- `A` is linear (R110). -/
theorem diffuse_xor (x z : Block) : diffuse (x ^^^ z) = diffuse x ^^^ diffuse z :=
  block_ext fun i hi => by
    rw [byteOf_xor, byteOf_diffuse _ hi, byteOf_diffuse _ hi, byteOf_diffuse _ hi, xorAt_xor]

/-- `A` keeps a block of sixteen equal bytes, since seven is odd (R110). -/
theorem diffuse_blockOf_const (v : Byte) : diffuse (blockOf fun _ => v) = blockOf fun _ => v := by
  refine block_ext fun i hi => ?_
  obtain ⟨hlen, -, hlt⟩ := seven_positions_of_row hi
  have hconst : ∀ j ∈ diffusionIndex.getD i [], byteOf (blockOf fun _ => v) j = v :=
    fun j hj => byteOf_blockOf _ (hlt j hj)
  rw [byteOf_diffuse _ hi, xorAt_of_const hconst, hlen, byteOf_blockOf _ hi]
  rfl

/-- The example of R110, byte by byte. -/
theorem diffuse_ascending_bytes :
    diffuse 0x000102030405060708090a0b0c0d0e0f = 0x03020100050407060a0b08090c0d0e0f := by
  refine block_ext fun i hi => ?_
  rw [byteOf_diffuse _ hi]
  revert i
  decide

/-- Settles O19: an output byte is the XOR over a set of seven positions; linearity and equal bytes are facts about that
XOR at every output position. -/
theorem diffusionXorsSevenBytes : Obligations.DiffusionXorsSevenBytes := by
  refine ⟨?sevenBytes, diffuse_xor, diffuse_blockOf_const, diffuse_ascending_bytes⟩
  intro x i hi
  obtain ⟨j1, j2, j3, j4, j5, j6, j7, hrow, hxor⟩ := xorAt_of_length_seven x (seven_positions_of_row hi).1
  refine ⟨j1, j2, j3, j4, j5, j6, j7, ?_, ?_⟩
  · rw [getElem?_diffusionIndex hi, hrow]
  · rw [byteOf_diffuse x hi, hxor]

end Sys2Proof.Machine
end

section
/-! The round functions: what they see of their operands, their values at the spec's examples, and the obligation O21
(spec/43_round_functions.md R120 and R121). -/

namespace Sys2Proof.Machine

/-! ## The XOR of two blocks -/

/-- The operands of `XOR` may be exchanged (R170). -/
theorem xorBlock_comm (x y : Block) : xorBlock x y = xorBlock y x := BitVec.xor_comm x y

/-- The zero block leaves the other operand of `XOR` as it is (R170). -/
@[simp] theorem xorBlock_zero (x : Block) : xorBlock x 0 = x := BitVec.xor_zero

/-! ## Dependence on the operands -/

/-- `FO` depends on its operands through their XOR only (R120). -/
theorem roundOdd_congr {d rk d' rk' : Block} (h : xorBlock d rk = xorBlock d' rk') :
    roundOdd d rk = roundOdd d' rk' := by
  rw [roundOdd, roundOdd, h]

/-- `FE` depends on its operands through their XOR only (R121). -/
theorem roundEven_congr {d rk d' rk' : Block} (h : xorBlock d rk = xorBlock d' rk') :
    roundEven d rk = roundEven d' rk' := by
  rw [roundEven, roundEven, h]

/-! ## Values -/

/-- The values of R120: `FO` at zero, where it is not zero, and at the rule's example. -/
theorem roundOdd_values : roundOdd 0 0 = 0x3052e263e2633052523063e263e25230 ∧
    roundOdd 0x00112233445566778899aabbccddeeff c1 = 0xa7be579e6af8640761e5716a00db1ee6 := by
  decide +kernel

/-- The values of R121: `FE` at zero and at the rule's example. -/
theorem roundEven_values : roundEven 0 0 = 0xe26330523052e26363e25230523063e2 ∧
    roundEven 0x00112233445566778899aabbccddeeff c1 = 0xd16a1e8b4384e95449076ed03a988755 := by
  decide +kernel

/-- Settles O21: the formulas are the definitions; exchanging the operands, or replacing them by their XOR and zero,
keeps the XOR, which is all that a round function sees of them. -/
theorem roundFunctionsSeeOnlyTheXor : Obligations.RoundFunctionsSeeOnlyTheXor := by
  obtain ⟨odd_zero, odd_example⟩ := roundOdd_values
  obtain ⟨even_zero, even_example⟩ := roundEven_values
  refine ⟨fun d rk => ?operands, odd_zero, even_zero, odd_example, even_example⟩
  case operands =>
    have exchanged : xorBlock d rk = xorBlock rk d := xorBlock_comm d rk
    have collected : xorBlock d rk = xorBlock (xorBlock d rk) 0 := (xorBlock_zero _).symm
    exact ⟨rfl, rfl, roundOdd_congr exchanged, roundOdd_congr collected,
      roundEven_congr exchanged, roundEven_congr collected⟩

end Sys2Proof.Machine
end

section
/-! The key schedule engine: what the key length selects, the two halves of the key, the Feistel computation and the
closed form of the candidates, with the obligations O29 to O32 (spec/44_key_schedule.md R132 to R135). -/

namespace Sys2Proof.Machine

/-! ## The key length -/

/-- Settles O29: the selections are those of the table, and only the three lengths select anything, each an even round
count. -/
theorem keyLengthSelectsRounds : Obligations.KeyLengthSelectsRounds := by
  refine ⟨rfl, rfl, rfl, fun n p h => ?even⟩
  case even =>
    obtain ⟨-, -, -, even⟩ := selectByLength_rounds h
    exact even

/-! ## The halves of the key -/

/-- A string of sixteen bytes is the string of its block (R7). -/
theorem stringOf_blockOfString {x : List Byte} (h : x.length = 16) : stringOf (blockOfString x) = x := by
  refine List.ext_getElem (by rw [length_stringOf, h]) fun k _ hk => ?_
  rw [← List.getD_eq_getElem _ 0, ← List.getD_eq_getElem _ 0, getD_stringOf _ (by omega), blockOfString,
    byteOf_blockOf _ (by omega)]

/-- `KL` is the leftmost sixteen bytes (R133). -/
theorem stringOf_keyLeft {key : List Byte} (h : 16 ≤ key.length) : stringOf (keyLeft key) = key.take 16 :=
  stringOf_blockOfString (List.length_take_of_le h)

/-- `KR` is the bytes from 16 on, with zero bytes to their right (R133). -/
theorem stringOf_keyRight {key : List Byte} (hmin : 16 ≤ key.length) (hmax : key.length ≤ 32) :
    stringOf (keyRight key) = key.drop 16 ++ List.replicate (32 - key.length) 0 := by
  have hlen : (key.drop 16 ++ List.replicate (32 - key.length) (0 : Byte)).length = 16 := by
    rw [List.length_append, List.length_drop, List.length_replicate]
    omega
  exact stringOf_blockOfString hlen

/-- A key is read back from its halves: `KL ‖ KR` is the key with its padding, which its length cuts off. -/
theorem take_halves {key : List Byte} (hmin : 16 ≤ key.length) (hmax : key.length ≤ 32) :
    (stringOf (keyLeft key) ++ stringOf (keyRight key)).take key.length = key := by
  rw [stringOf_keyLeft hmin, stringOf_keyRight hmin hmax, ← List.append_assoc, List.take_append_drop, List.take_left]

/-- Settles O30: the halves are the strings of their blocks, and a key is its halves and its length. -/
theorem keySplitUsesEveryByte : Obligations.KeySplitUsesEveryByte := by
  intro key hkey
  obtain ⟨hmin, hmax⟩ : 16 ≤ key.length ∧ key.length ≤ 32 := by
    simp only [List.mem_cons, List.not_mem_nil, or_false] at hkey
    omega
  refine ⟨stringOf_keyLeft hmin, stringOf_keyRight hmin hmax, ?injective⟩
  case injective =>
    intro key' hlen hleft hright
    calc key'
      _ = (stringOf (keyLeft key') ++ stringOf (keyRight key')).take key'.length :=
        (take_halves (hlen ▸ hmin) (hlen ▸ hmax)).symm
      _ = (stringOf (keyLeft key) ++ stringOf (keyRight key)).take key.length := by rw [hleft, hright, hlen]
      _ = key := take_halves hmin hmax

/-! ## The Feistel computation -/

/-- Settles O31: each value is defined from those before it by the rule's equation. -/
theorem feistelComputesWords : Obligations.FeistelComputesWords :=
  fun _ _ => ⟨rfl, rfl, rfl, rfl⟩

/-! ## The candidate round keys -/

/-- The `W` values in their cyclic order: after `W3` comes `W0` (R135). -/
def FeistelWords.cyclic (w : FeistelWords) (m : Nat) : Block := [w.w0, w.w1, w.w2, w.w3].getD (m % 4) 0

/-- The rotation of group `g` of the candidates (R135). -/
def groupRotation (g : Nat) (x : Block) : Block :=
  match g with
  | 0 => ror x 19
  | 1 => ror x 31
  | 2 => rol x 61
  | 3 => rol x 31
  | _ => rol x 19

/-- The closed form of the candidate at place `j`, counted from 0: `W_m` with the rotation of its group of the next
`W` (R135). -/
def closedForm (w : FeistelWords) (j : Nat) : Block := w.cyclic (j % 4) ^^^ groupRotation (j / 4) (w.cyclic (j % 4 + 1))

/-- The table of the candidates lists the closed form; the last entry of each full group has its operands exchanged
(R135). -/
theorem candidates_eq_map_closedForm (w : FeistelWords) : candidates w = (List.range 17).map (closedForm w) := by
  rw [candidates, xorBlock_comm (ror w.w0 19), xorBlock_comm (ror w.w0 31), xorBlock_comm (rol w.w0 61),
    xorBlock_comm (rol w.w0 31)]
  rfl

/-- Each of the seventeen candidates is its closed form (R135). -/
theorem candidate_eq_closedForm (w : FeistelWords) {k : Nat} (h : k - 1 < 17) :
    candidate w k = closedForm w (k - 1) := by
  rw [candidate, candidates_eq_map_closedForm, List.getD_eq_getElem _ _ (by simpa using h), List.getElem_map,
    List.getElem_range]

/-- Settles O32: the candidate `ek_k` stands at place `k - 1` of the table, which lists the closed form. -/
theorem candidatesFollowClosedForm : Obligations.CandidatesFollowClosedForm := by
  intro w0 w1 w2 w3 k hk
  have hplace : k - 1 < 17 := by
    have := List.mem_range'_1.1 hk
    omega
  exact candidate_eq_closedForm ⟨w0, w1, w2, w3⟩ hplace

end Sys2Proof.Machine
end

section
/-! The tables and the two substitution layers undo each other, with the obligations O14 and O17
(spec/40_constant_tables.md R96, spec/41_substitution_layer.md R102). -/

namespace Sys2Proof.Machine

/-! ## The tables -/

/-- `SB3` and `SB1` undo each other, entry by entry (R96). -/
theorem sb3_sb1_inverse : Function.LeftInverse sb3 sb1 ∧ Function.RightInverse sb3 sb1 := by
  have entries : ∀ v : Byte, sb3 (sb1 v) = v ∧ sb1 (sb3 v) = v := by decide +kernel
  exact ⟨fun v => (entries v).1, fun v => (entries v).2⟩

/-- `SB4` and `SB2` undo each other, entry by entry (R96). -/
theorem sb4_sb2_inverse : Function.LeftInverse sb4 sb2 ∧ Function.RightInverse sb4 sb2 := by
  have entries : ∀ v : Byte, sb4 (sb2 v) = v ∧ sb2 (sb4 v) = v := by decide +kernel
  exact ⟨fun v => (entries v).1, fun v => (entries v).2⟩

/-- Settles O14: the entries show two inverse pairs, and a function with a two-sided inverse is a bijection. -/
theorem tablesAreMutuallyInverse : Obligations.TablesAreMutuallyInverse := by
  obtain ⟨inv31, inv13⟩ := sb3_sb1_inverse
  obtain ⟨inv42, inv24⟩ := sb4_sb2_inverse
  refine ⟨fun v => ⟨inv31 v, inv42 v, inv13 v, inv24 v⟩, ?sb1, ?sb2, ?sb3, ?sb4⟩
  case sb1 => exact ⟨inv31.injective, inv13.surjective⟩
  case sb2 => exact ⟨inv42.injective, inv24.surjective⟩
  case sb3 => exact ⟨inv13.injective, inv31.surjective⟩
  case sb4 => exact ⟨inv24.injective, inv42.surjective⟩

/-! ## The layers -/

/-- At every position the two layers use inverse tables (R103). -/
theorem layer_tables_inverse (i : Nat) (v : Byte) :
    sl2Table i (sl1Table i v) = v ∧ sl1Table i (sl2Table i v) = v := by
  obtain ⟨inv31, inv13⟩ := sb3_sb1_inverse
  obtain ⟨inv42, inv24⟩ := sb4_sb2_inverse
  have class_of : ∀ k, i % 4 = k % 4 → sl1Table i = sl1Table k ∧ sl2Table i = sl2Table k :=
    fun k h => ⟨sl1Table_congr h, sl2Table_congr h⟩
  obtain h | h | h | h : i % 4 = 0 ∨ i % 4 = 1 ∨ i % 4 = 2 ∨ i % 4 = 3 := by omega
  · obtain ⟨h1, h2⟩ := class_of 0 h
    rw [h1, h2]
    exact ⟨inv31 v, inv13 v⟩
  · obtain ⟨h1, h2⟩ := class_of 1 h
    rw [h1, h2]
    exact ⟨inv42 v, inv24 v⟩
  · obtain ⟨h1, h2⟩ := class_of 2 h
    rw [h1, h2]
    exact ⟨inv13 v, inv31 v⟩
  · obtain ⟨h1, h2⟩ := class_of 3 h
    rw [h1, h2]
    exact ⟨inv24 v, inv42 v⟩

/-- `SL2` undoes `SL1` (R102). -/
@[simp] theorem sl2_sl1 (x : Block) : sl2 (sl1 x) = x :=
  block_ext fun i hi => by rw [byteOf_sl2 _ hi, byteOf_sl1 _ hi, (layer_tables_inverse i _).1]

/-- `SL1` undoes `SL2` (R102). -/
@[simp] theorem sl1_sl2 (x : Block) : sl1 (sl2 x) = x :=
  block_ext fun i hi => by rw [byteOf_sl1 _ hi, byteOf_sl2 _ hi, (layer_tables_inverse i _).2]

/-- A map that moves the zero block is not linear. -/
theorem not_linear_of_ne_zero {f : Block → Block} (h : f 0 ≠ 0) : ∃ x y, f (x ^^^ y) ≠ f x ^^^ f y :=
  ⟨0, 0, by rwa [BitVec.xor_self, BitVec.xor_self]⟩

/-- Settles O17: the tables at a position undo each other; neither layer keeps the zero block, so neither is linear, and
the zero block is a block that neither undoes by itself. -/
theorem substitutionLayersInvert : Obligations.SubstitutionLayersInvert := by
  have zero1 : sl1 0 ≠ 0 ∧ sl1 (sl1 0) = 0xfb5b48c0fb5b48c0fb5b48c0fb5b48c0 := by decide +kernel
  have zero2 : sl2 0 ≠ 0 ∧ sl2 (sl2 0) ≠ 0 := by decide +kernel
  obtain ⟨moves1, twice1⟩ := zero1
  obtain ⟨moves2, twice2⟩ := zero2
  have twice1_ne : sl1 (sl1 0) ≠ 0 := by rw [twice1]; decide
  exact ⟨fun x => ⟨sl2_sl1 x, sl1_sl2 x⟩, not_linear_of_ne_zero moves1, not_linear_of_ne_zero moves2, twice1,
    ⟨0, twice1_ne⟩, 0, twice2⟩

end Sys2Proof.Machine
end

section
/-! The diffusion layer is an involution, with the obligation O20 (spec/42_diffusion_layer.md R112). -/

namespace Sys2Proof.Machine

/-- The order of the positions does not matter to their XOR. -/
theorem xorAt_perm (x : Block) {ps qs : List Nat} (h : ps.Perm qs) : xorAt x ps = xorAt x qs := by
  induction h with
  | nil => rfl
  | cons j _ ih => rw [xorAt_cons, xorAt_cons, ih]
  | swap j k ps => simp only [xorAt_cons]; ac_rfl
  | trans _ _ ih1 ih2 => rw [ih1, ih2]

theorem xorAt_append (x : Block) (ps qs : List Nat) : xorAt x (ps ++ qs) = xorAt x ps ^^^ xorAt x qs := by
  induction ps with
  | nil => simp
  | cons j ps ih => rw [List.cons_append, xorAt_cons, xorAt_cons, ih, BitVec.xor_assoc]

/-- Adds a position to a set of them, or takes it out where it is there: a byte XORed twice is gone. -/
def toggle (j : Nat) (ps : List Nat) : List Nat := if j ∈ ps then ps.erase j else j :: ps

theorem xorAt_toggle (x : Block) (j : Nat) (ps : List Nat) : xorAt x (toggle j ps) = byteOf x j ^^^ xorAt x ps := by
  unfold toggle
  split
  · next h =>
    rw [xorAt_perm x (List.perm_cons_erase h), xorAt_cons, ← BitVec.xor_assoc, BitVec.xor_self, BitVec.zero_xor]
  · rfl

/-- The positions that occur an odd number of times. -/
def surviving (ps : List Nat) : List Nat := ps.foldr toggle []

theorem xorAt_surviving (x : Block) (ps : List Nat) : xorAt x (surviving ps) = xorAt x ps := by
  induction ps with
  | nil => rfl
  | cons j ps ih => exact (xorAt_toggle x j _).trans (congrArg (byteOf x j ^^^ ·) ih)

/-- An XOR of bytes of `A(x)` is the XOR of the bytes of `x` over all their index sets. -/
theorem xorAt_diffuse (x : Block) {ps : List Nat} (h : ∀ j ∈ ps, j < 16) :
    xorAt (diffuse x) ps = xorAt x (ps.flatMap fun j => diffusionIndex.getD j []) := by
  induction ps with
  | nil => rfl
  | cons j ps ih =>
    obtain ⟨hj, hps⟩ := List.forall_mem_cons.1 h
    rw [xorAt_cons, byteOf_diffuse x hj, ih hps, List.flatMap_cons, xorAt_append]

/-- The square of the matrix is the identity: over the index sets of the members of `IDX[i]`, position `i` alone
survives (R112). -/
theorem surviving_twice_diffused :
    ∀ i < 16, surviving ((diffusionIndex.getD i []).flatMap fun j => diffusionIndex.getD j []) = [i] := by
  decide +kernel

/-- `A` is an involution (R112). -/
@[simp] theorem diffuse_diffuse (x : Block) : diffuse (diffuse x) = x := by
  refine block_ext fun i hi => ?_
  obtain ⟨-, -, hlt⟩ := seven_positions_of_row hi
  calc byteOf (diffuse (diffuse x)) i
    _ = xorAt (diffuse x) (diffusionIndex.getD i []) := byteOf_diffuse _ hi
    _ = xorAt x (surviving ((diffusionIndex.getD i []).flatMap fun j => diffusionIndex.getD j [])) := by
      rw [xorAt_diffuse x hlt, xorAt_surviving]
    _ = byteOf x i ^^^ 0 := by rw [surviving_twice_diffused i hi, xorAt_cons, xorAt_nil]
    _ = byteOf x i := BitVec.xor_zero

/-- Settles O20: an involution is a bijection. -/
theorem diffusionIsInvolution : Obligations.DiffusionIsInvolution :=
  ⟨diffuse_diffuse, Function.Involutive.bijective diffuse_diffuse⟩

end Sys2Proof.Machine
end

section
/-! The round functions undone: the layer at a round index, the inverse of a full round, and the obligation O22
(spec/43_round_functions.md R122). -/

namespace Sys2Proof.Machine

/-- Two XORs with the same key cancel. -/
@[simp] theorem xor_xor_same (x k : Block) : x ^^^ k ^^^ k = x := by
  rw [BitVec.xor_assoc, BitVec.xor_self, BitVec.xor_zero]

/-- The layer undone and the key XORed again give the block back: the inverse of `D -> A(SL(D xor RK))` (R122). -/
theorem keyed_layer_undone {f g : Block → Block} (h : Function.LeftInverse g f) (d rk : Block) :
    g (diffuse (diffuse (f (xorBlock d rk)))) ^^^ rk = d := by
  rw [diffuse_diffuse, h, xorBlock, xor_xor_same]

/-- The same inverse from the other side (R122). -/
theorem keyed_layer_redone {f g : Block → Block} (h : Function.RightInverse g f) (y rk : Block) :
    diffuse (f (xorBlock (g (diffuse y) ^^^ rk) rk)) = y := by
  rw [xorBlock, xor_xor_same, h, diffuse_diffuse]

/-- `Y -> SL2(A(Y)) xor RK` undoes `FO` on both sides (R122). -/
theorem roundOdd_inverse (rk : Block) :
    Function.LeftInverse (fun y => sl2 (diffuse y) ^^^ rk) (roundOdd · rk) ∧
      Function.RightInverse (fun y => sl2 (diffuse y) ^^^ rk) (roundOdd · rk) :=
  ⟨fun d => keyed_layer_undone sl2_sl1 d rk, fun y => keyed_layer_redone sl1_sl2 y rk⟩

/-- `Y -> SL1(A(Y)) xor RK` undoes `FE` on both sides (R122). -/
theorem roundEven_inverse (rk : Block) :
    Function.LeftInverse (fun y => sl1 (diffuse y) ^^^ rk) (roundEven · rk) ∧
      Function.RightInverse (fun y => sl1 (diffuse y) ^^^ rk) (roundEven · rk) :=
  ⟨fun d => keyed_layer_undone sl1_sl2 d rk, fun y => keyed_layer_redone sl2_sl1 y rk⟩

/-- Settles O22: the written inverses hold on both sides, which makes the round functions bijections; at the zero block
and the zero key they do not undo each other. -/
theorem roundFunctionsInvert : Obligations.RoundFunctionsInvert := by
  refine ⟨fun d rk => ?odd, fun d rk => ?even, fun rk => ?bijective, diffuse_xor, 0, 0, ?notInverse⟩
  case odd => exact ⟨(roundOdd_inverse rk).1 d, (roundOdd_inverse rk).2 d⟩
  case even => exact ⟨(roundEven_inverse rk).1 d, (roundEven_inverse rk).2 d⟩
  case bijective =>
    obtain ⟨oddLeft, oddRight⟩ := roundOdd_inverse rk
    obtain ⟨evenLeft, evenRight⟩ := roundEven_inverse rk
    exact ⟨⟨oddLeft.injective, oddRight.surjective⟩, evenLeft.injective, evenRight.surjective⟩
  case notInverse => decide +kernel

end Sys2Proof.Machine
end

section
/-! The round function controller and `Crypt`: the obligations O37 and O38, and the key files under which `Crypt` undoes
`Crypt` (spec/45_block_driver.md R150 to R154). -/

namespace Sys2Proof.Machine

/-! ## The rounds -/

/-- `Crypt` with its final round written out (R150, R153). -/
theorem crypt_eq (p : Block) (file : KeyFile) (r : Nat) :
    crypt p file r = sl2 (afterRounds file p (r - 1) ^^^ file.entry (r - 1)) ^^^ file.entry r := rfl

/-- Settles O37: the controller's step with the round function of the index's parity; `Crypt` of twelve rounds is that
sequence by evaluation. -/
theorem roundControllerAlternates : Obligations.RoundControllerAlternates := by
  refine ⟨fun file p j => ⟨rfl, fun h => ?even, fun h => ?odd⟩, fun file p r => crypt_eq p file r, fun k p => rfl⟩
  case even => rw [afterRounds_succ, roundAt_of_even h]
  case odd => rw [afterRounds_succ, roundAt_of_odd h]

/-- The controller runs `FO` at the even round indices only (R151). -/
theorem roundAt_eq_roundOdd_iff (j : Nat) : roundAt j = roundOdd ↔ j % 2 = 0 := by
  refine ⟨fun h => ?_, roundAt_of_even⟩
  by_contra hodd
  rw [roundAt_of_odd (by omega)] at h
  exact roundOdd_ne_roundEven h.symm

/-- The controller runs `FE` at the odd round indices only (R151). -/
theorem roundAt_eq_roundEven_iff (j : Nat) : roundAt j = roundEven ↔ j % 2 = 1 := by
  refine ⟨fun h => ?_, roundAt_of_odd⟩
  by_contra heven
  rw [roundAt_of_even (by omega)] at h
  exact roundOdd_ne_roundEven h

/-- The round indices of one parity below `n` are counted on the list of the indices (R152). -/
theorem ncard_rounds_of_parity (n parity : Nat) :
    {j : Nat | j < n ∧ j % 2 = parity}.ncard = ((List.range n).filter (· % 2 = parity)).length := by
  have hset : {j : Nat | j < n ∧ j % 2 = parity} = ((List.range n).filter (· % 2 = parity)).toFinset := by
    ext j
    simp
  rw [hset, Set.ncard_coe_finset, List.toFinset_card_of_nodup (List.nodup_range.filter _)]

/-- The full rounds use the keys `K[0..n-1]` only (R150). -/
theorem afterRounds_congr {file file' : KeyFile} (p : Block) {n : Nat} (h : ∀ i < n, file.entry i = file'.entry i) :
    afterRounds file p n = afterRounds file' p n := by
  induction n with
  | zero => rfl
  | succ n ih =>
    rw [afterRounds_succ, afterRounds_succ, ih fun i hi => h i (by omega), h n (by omega)]

/-- `Crypt` uses the keys `K[0..R]` only (R152). -/
theorem crypt_congr {file file' : KeyFile} (p : Block) {r : Nat} (h : ∀ i ≤ r, file.entry i = file'.entry i) :
    crypt p file r = crypt p file' r := by
  rw [crypt_eq, crypt_eq, afterRounds_congr p fun i hi => h i (by omega), h (r - 1) (by omega), h r (by omega)]

/-- Settles O38: the rounds of a kind are the indices of a parity, counted for each of the three round counts. -/
theorem roundCountsPerKind : Obligations.RoundCountsPerKind := by
  intro r hr
  refine ⟨?odd, ?even, fun file p => ⟨fun j _ => rfl, rfl⟩, fun file file' p => crypt_congr p⟩
  case odd =>
    simp only [roundAt_eq_roundOdd_iff, ncard_rounds_of_parity]
    revert r
    decide
  case even =>
    simp only [roundAt_eq_roundEven_iff, ncard_rounds_of_parity]
    revert r
    decide

/-! ## Undoing `Crypt` -/

/-- The substitution layer of the full round at index `j` (R120, R121, R151). -/
def layerAt (j : Nat) (x : Block) : Block := if j % 2 = 0 then sl1 x else sl2 x

/-- The full round at index `j` is the layer of that index followed by the diffusion. -/
theorem roundAt_eq_diffuse_layerAt (j : Nat) (s rk : Block) : roundAt j s rk = diffuse (layerAt j (s ^^^ rk)) := by
  unfold roundAt layerAt
  split <;> rfl

/-- The layers of two indices of different parity undo each other (R102). -/
theorem layerAt_layerAt {i j : Nat} (h : (i + j) % 2 = 1) (x : Block) : layerAt i (layerAt j x) = x := by
  unfold layerAt
  by_cases hi : i % 2 = 0
  · rw [if_pos hi, if_neg (by omega), sl1_sl2]
  · rw [if_neg hi, if_pos (by omega), sl2_sl1]

/-- One file holds the other's keys in reverse order, the inner ones moved across the diffusion layer: what R139 says
of `DK` and `EK`. -/
structure Mirrors (file other : KeyFile) (r : Nat) : Prop where
  entry_zero : other.entry 0 = file.entry r
  entry_last : other.entry r = file.entry 0
  entry_inner : ∀ i < r, 0 < i → other.entry i = diffuse (file.entry (r - i))

/-- The relation of R139 holds in the other direction too, since `A` is an involution. -/
theorem Mirrors.symm {file other : KeyFile} {r : Nat} (h : Mirrors file other r) : Mirrors other file r where
  entry_zero := h.entry_last.symm
  entry_last := h.entry_zero.symm
  entry_inner i hi hpos := by
    rw [h.entry_inner (r - i) (by omega) (by omega), diffuse_diffuse, show r - (r - i) = i by omega]

/-- After `j` rounds of the second `Crypt` its state is the diffused, keyed state of the first `Crypt` before its round
`R - j`: every round undoes one (R154). -/
theorem afterRounds_mirrored {file other : KeyFile} {r : Nat} (h : Mirrors file other r) (heven : r % 2 = 0) (p : Block)
    {j : Nat} (hpos : 0 < j) (hj : j < r) :
    afterRounds other (crypt p file r) j = diffuse (afterRounds file p (r - j) ^^^ file.entry (r - j)) := by
  induction j, hpos using Nat.le_induction with
  | base =>
    have hstart : afterRounds other (crypt p file r) 0 = crypt p file r := rfl
    rw [afterRounds_succ, roundAt_eq_diffuse_layerAt, hstart, crypt_eq, h.entry_zero, xor_xor_same]
    exact congrArg diffuse (sl1_sl2 _)
  | succ j hpos ih =>
    have hstate : afterRounds file p (r - j) =
        diffuse (layerAt (r - (j + 1)) (afterRounds file p (r - (j + 1)) ^^^ file.entry (r - (j + 1)))) := by
      rw [show r - j = r - (j + 1) + 1 by omega, afterRounds_succ, roundAt_eq_diffuse_layerAt]
    rw [afterRounds_succ, ih (by omega), roundAt_eq_diffuse_layerAt, h.entry_inner j (by omega) (by omega),
      ← diffuse_xor, xor_xor_same, hstate, diffuse_diffuse, layerAt_layerAt (by omega)]

/-- Under mirrored key files `Crypt` with the second undoes `Crypt` with the first (R154). -/
theorem crypt_crypt_of_mirrors {file other : KeyFile} {r : Nat} (h : Mirrors file other r) (heven : r % 2 = 0)
    (hr : 2 ≤ r) (p : Block) : crypt (crypt p file r) other r = p := by
  have hone : r - (r - 1) = 1 := by omega
  have hlast : afterRounds other (crypt p file r) (r - 1) = diffuse (afterRounds file p 1 ^^^ file.entry 1) := by
    rw [afterRounds_mirrored h heven p (by omega) (by omega), hone]
  have hfirst : afterRounds file p 1 = diffuse (sl1 (p ^^^ file.entry 0)) := rfl
  rw [crypt_eq (crypt p file r), hlast, h.entry_last, h.entry_inner (r - 1) (by omega) (by omega), hone,
    ← diffuse_xor, xor_xor_same, hfirst, diffuse_diffuse, sl2_sl1, xor_xor_same]

/-- The two directions of R154. -/
theorem crypt_inverse_of_mirrors {file other : KeyFile} {r : Nat} (h : Mirrors file other r) (heven : r % 2 = 0)
    (hr : 2 ≤ r) (p : Block) :
    crypt (crypt p file r) other r = p ∧ crypt (crypt p other r) file r = p :=
  ⟨crypt_crypt_of_mirrors h heven hr p, crypt_crypt_of_mirrors h.symm heven hr p⟩

end Sys2Proof.Machine
end

section
/-! CONSTRUCT: the keys it installs, its two outcomes, and the obligations O33 to O36, O46 and O56
(spec/44_key_schedule.md R131, R138 and R139; spec/45_block_driver.md R154). -/

namespace Sys2Proof.Machine

/-! ## The key files a key writes -/

/-- The files written from the candidates of one key are mirrored (R138, R139). -/
theorem mirrors_writeFirst (ek dk : KeyFile) (w : FeistelWords) {r : Nat} (hpos : 0 < r) (hr : r ≤ 16) :
    Mirrors (KeyFile.writeFirst ek (encKey w) (r + 1)) (KeyFile.writeFirst dk (decKey w r) (r + 1)) r := by
  have enc : ∀ i ≤ r, KeyFile.entry (KeyFile.writeFirst ek (encKey w) (r + 1)) i = encKey w i := fun i hi => by
    rw [KeyFile.entry_writeFirst _ _ _ (by omega), if_pos (by omega)]
  have dec : ∀ i ≤ r, KeyFile.entry (KeyFile.writeFirst dk (decKey w r) (r + 1)) i = decKey w r i := fun i hi => by
    rw [KeyFile.entry_writeFirst _ _ _ (by omega), if_pos (by omega)]
  refine ⟨?zero, ?last, fun i hi h0 => ?inner⟩
  case zero => rw [dec 0 (by omega), enc r le_rfl, decKey, if_pos rfl]
  case last => rw [dec r le_rfl, enc 0 (by omega), decKey, if_neg (by omega), if_pos rfl]
  case inner => rw [dec i (by omega), enc (r - i) (by omega), decKey, if_neg (by omega), if_neg (by omega)]

/-- Settles O56: the ciphertext is evaluated; that the decryption keys give the plaintext back is R154 for the files of
this key. -/
theorem pinnedScenarioCiphertext : Obligations.PinnedScenarioCiphertext := by
  unfold Obligations.PinnedScenarioCiphertext
  intro key w zero
  have encrypted : crypt 0x00112233445566778899aabbccddeeff (KeyFile.writeFirst zero (encKey w) 13) 12 =
      0xd718fbd6ab644c739da95f3be6451778 := by decide +kernel
  refine ⟨encrypted, ?_⟩
  rw [← encrypted]
  exact crypt_crypt_of_mirrors (mirrors_writeFirst zero zero w (by decide) (by decide)) (by decide) (by decide) _

/-! ## The state CONSTRUCT leaves -/

theorem exec_construct (s : State) : exec .construct s = execConstruct s := rfl

/-- CONSTRUCT with a legal key length installs the keys (R131). -/
theorem exec_construct_of_legal {s : State} {p : KeyParams} (h : selectByLength s.keyLen.toNat = some p) :
    exec .construct s = .next (constructed p s) := by
  rw [exec_construct, execConstruct, h]
  rfl

/-- CONSTRUCT with any other key length raises InvalidKeyLength (R131). -/
theorem exec_construct_of_illegal {s : State} (h : selectByLength s.keyLen.toNat = none) :
    exec .construct s = .next (raise .invalidKeyLength s) := by
  rw [exec_construct, execConstruct, h]

section
variable {s : State} {p : KeyParams} (h : selectByLength s.keyLen.toNat = some p)
include h

/-- `ROUNDS` holds the round count of the key length (R132). -/
theorem constructed_rounds : (constructed p s).rounds.toNat = p.rounds := (selectByLength_rounds h).1

/-- The encryption keys are the candidates of the presented key (R138). -/
theorem constructed_ek_entry {i : Nat} (hi : i ≤ p.rounds) :
    (constructed p s).ek.entry i = encKey (keyWords p (masterKey s s.keyLen.toNat)) i := by
  obtain ⟨-, -, hmax, -⟩ := selectByLength_rounds h
  exact (KeyFile.entry_writeFirst _ _ _ (by omega)).trans (if_pos (by omega))

/-- The decryption keys are those R139 makes of the candidates. -/
theorem constructed_dk_entry {i : Nat} (hi : i ≤ p.rounds) :
    (constructed p s).dk.entry i = decKey (keyWords p (masterKey s s.keyLen.toNat)) p.rounds i := by
  obtain ⟨-, -, hmax, -⟩ := selectByLength_rounds h
  exact (KeyFile.entry_writeFirst _ _ _ (by omega)).trans (if_pos (by omega))

/-- The decryption keys mirror the encryption keys (R139). -/
theorem constructed_mirrors : Mirrors (constructed p s).ek (constructed p s).dk p.rounds := by
  obtain ⟨-, hmin, hmax, -⟩ := selectByLength_rounds h
  exact mirrors_writeFirst _ _ _ (by omega) hmax

/-- The installed keys decrypt what they encrypt, and conversely (R154). -/
theorem constructed_crypt_inverse (q : Block) :
    crypt (crypt q (constructed p s).ek (constructed p s).rounds.toNat) (constructed p s).dk
        (constructed p s).rounds.toNat = q ∧
      crypt (crypt q (constructed p s).dk (constructed p s).rounds.toNat) (constructed p s).ek
        (constructed p s).rounds.toNat = q := by
  obtain ⟨-, hmin, -, heven⟩ := selectByLength_rounds h
  rw [constructed_rounds h]
  exact crypt_inverse_of_mirrors (constructed_mirrors h) heven (by omega) q

end

/-- The entries above the round count are kept (R131). -/
theorem constructed_entries_above (p : KeyParams) (s : State) {i : Nat} (hi : p.rounds < i) (h17 : i < 17) :
    (constructed p s).ek.entry i = s.ek.entry i ∧ (constructed p s).dk.entry i = s.dk.entry i :=
  ⟨(KeyFile.entry_writeFirst _ _ _ h17).trans (if_neg (by omega)),
    (KeyFile.entry_writeFirst _ _ _ h17).trans (if_neg (by omega))⟩

/-- All that CONSTRUCT changes when it succeeds (R131). -/
theorem constructed_frame (p : KeyParams) (s : State) :
    constructed p s =
      { s with
        ek := (constructed p s).ek, dk := (constructed p s).dk, rounds := (constructed p s).rounds
        kLen := s.keyLen, valid := true, err := 0 } := rfl

/-! ## The obligations -/

/-- Settles O33: the listed parameters are those the key length selects, and the state CONSTRUCT then leaves has the
candidates, mirrored, up to the round count. -/
theorem constructInstallsInstance : Obligations.ConstructInstallsInstance := by
  intro s p hp
  have hsel : selectByLength s.keyLen.toNat = some p := by
    simp only [List.mem_cons, Prod.mk.injEq, List.not_mem_nil, or_false] at hp
    obtain ⟨hn, rfl⟩ | ⟨hn, rfl⟩ | ⟨hn, rfl⟩ := hp <;> rw [hn] <;> rfl
  have hmirror := constructed_mirrors hsel
  refine ⟨constructed p s, exec_construct_of_legal hsel, fun i hi => constructed_ek_entry hsel hi, hmirror.entry_zero,
    hmirror.entry_last, fun i h1 hi => ⟨hmirror.entry_inner i hi h1, hmirror.symm.entry_inner i hi h1⟩,
    fun i hi h17 => constructed_entries_above p s hi h17, constructed_rounds hsel, rfl, rfl, rfl, constructed_frame p s⟩

/-- Settles O34: such a length selects nothing. -/
theorem constructRefusesOtherLengths : Obligations.ConstructRefusesOtherLengths := by
  intro s h16 h24 h32
  have ne (k : Byte) (h : s.keyLen ≠ k) : s.keyLen.toNat ≠ k.toNat := fun e => h (BitVec.eq_of_toNat_eq e)
  exact exec_construct_of_illegal (selectByLength_eq_none.2 ⟨ne 16 h16, ne 24 h24, ne 32 h32⟩)

/-- Settles O35: on an error nothing but `ERR` and `VALID` is written; on success the registers of the frame are kept
and so are the entries above the round count. -/
theorem constructFrame : Obligations.ConstructFrame := by
  intro s t h
  obtain ⟨-, rfl⟩ | ⟨p, hsel, rfl⟩ := execConstruct_cases h
  · exact ⟨rfl, rfl, rfl, rfl, rfl, fun _ => rfl, fun _ => rfl, fun _ _ _ => ⟨rfl, rfl⟩, fun _ => ⟨rfl, rfl, rfl, rfl⟩⟩
  · refine ⟨rfl, rfl, rfl, rfl, rfl, fun _ => rfl, fun _ => rfl, fun i hi h17 => ?above, fun herr => absurd rfl herr⟩
    case above =>
      rw [constructed_rounds hsel] at hi
      exact constructed_entries_above p s hi h17

/-- Two key registers that agree below `n` present the same `n` bytes (R21). -/
theorem masterKey_congr (s : State) (key : Vector Byte 32) {n : Nat}
    (h : ∀ (i : Nat) (hi : i < 32), i < n → key[i] = s.key[i]) : masterKey { s with key := key } n = masterKey s n := by
  unfold masterKey
  refine List.ext_getElem (by simp) fun i hi hi' => ?_
  have hbound : i < n ∧ i < 32 := by simpa using hi'
  simpa using h i hbound.2 hbound.1

/-- Settles O36: the presented bytes are all that a successful CONSTRUCT reads of `KEY`, and an error reads none. -/
theorem constructReadsOnlyPresentedKey : Obligations.ConstructReadsOnlyPresentedKey := by
  intro s t key hagree h
  obtain ⟨hsel, rfl⟩ | ⟨p, hsel, rfl⟩ := execConstruct_cases h
  · exact exec_construct_of_illegal (s := { s with key := key }) hsel
  · have hkey : masterKey { s with key := key } s.keyLen.toNat = masterKey s s.keyLen.toNat := by
      obtain hagree | hnone := hagree
      · exact masterKey_congr s key hagree
      · rw [hsel] at hnone
        exact absurd hnone (Option.some_ne_none p)
    rw [exec_construct_of_legal (s := { s with key := key }) hsel, constructed, hkey]
    rfl

/-- Settles O46: a CONSTRUCT that leaves `ERR` 0 has installed mirrored keys. -/
theorem decryptionInvertsEncryption : Obligations.DecryptionInvertsEncryption := by
  intro s t h herr q
  obtain ⟨-, rfl⟩ | ⟨p, hsel, rfl⟩ := execConstruct_cases h
  · exact absurd (show (1 : BitVec 3) = 0 from herr) (by decide)
  · exact constructed_crypt_inverse hsel q

end Sys2Proof.Machine
end

section
/-! ENCRYPT and DECRYPT: every outcome of a command, the blocks they write and what they leave unchanged, with the
obligations O39 to O45 and O49 (spec/45_block_driver.md R155 to R158, spec/60_exceptions.md R184 to R186). -/

namespace Sys2Proof.Machine

/-! ## The length check -/

/-- Settles O39: the check is its three conditions; under each key length they are one divisibility. -/
theorem acceptedLengths : Obligations.AcceptedLengths := by
  refine ⟨fun len kLen => ?refused, fun len => ⟨?len16, ?len24, ?len32⟩⟩
  case refused =>
    rw [← Bool.not_eq_true, lengthAccepted_iff, Nat.dvd_iff_mod_eq_zero, Nat.dvd_iff_mod_eq_zero]
    omega
  case len16 | len24 | len32 =>
    rw [lengthAccepted_iff]
    omega

/-! ## The outcomes of a command -/

/-- Which key file a command hands to `Crypt`: ENCRYPT the encryption keys (R155), DECRYPT the decryption keys
(R158). -/
inductive CryptFile : Instr → (State → KeyFile) → Prop where
  | encrypt : CryptFile .encrypt State.ek
  | decrypt : CryptFile .decrypt State.dk

/-- A command with a key file is the shared body on that file. -/
theorem CryptFile.exec_eq {i : Instr} {file : State → KeyFile} (hf : CryptFile i file) (s : State) :
    exec i s = cryptCommand (file s) s := by
  cases hf <;> rfl

theorem exists_cryptFile {i : Instr} (hi : i ∈ [Instr.encrypt, Instr.decrypt]) : ∃ file, CryptFile i file := by
  simp only [List.mem_cons, List.not_mem_nil, or_false] at hi
  obtain rfl | rfl := hi
  · exact ⟨_, .encrypt⟩
  · exact ⟨_, .decrypt⟩

/-- The file is read from the round-key registers alone. -/
theorem CryptFile.congr {i : Instr} {file : State → KeyFile} (hf : CryptFile i file) {s s' : State}
    (hek : s'.ek = s.ek) (hdk : s'.dk = s.dk) : file s' = file s := by
  cases hf
  · exact hek
  · exact hdk

/-- Without an installed key the shared body raises NoInstance (R186). -/
theorem cryptCommand_of_not_valid (file : KeyFile) {s : State} (hv : s.valid = false) :
    cryptCommand file s = .next (raise .noInstance s) :=
  if_pos hv

/-- With a length that the check refuses the shared body raises InvalidInputLength (R186). -/
theorem cryptCommand_of_refused (file : KeyFile) {s : State} (hv : s.valid = true)
    (hl : lengthAccepted s.len.toNat s.kLen.toNat = false) :
    cryptCommand file s = .next (raise .invalidInputLength s) := by
  rw [cryptCommand, if_neg (by simp [hv]), if_pos hl]

/-- With an installed key and an accepted length the shared body writes the blocks (R155, R158). -/
theorem cryptCommand_of_accepted (file : KeyFile) {s : State} (hv : s.valid = true)
    (hl : lengthAccepted s.len.toNat s.kLen.toNat = true) : cryptCommand file s = .next (crypted file s) := by
  rw [cryptCommand, if_neg (by simp [hv]), if_neg (by simp [hl])]
  rfl

/-- The outcomes of the three commands: the command, the condition and the next state of each. -/
inductive CommandResult (s : State) : Instr → State → Prop where
  | invalidKeyLength (hsel : selectByLength s.keyLen.toNat = none) :
      CommandResult s .construct (raise .invalidKeyLength s)
  | installed (p : KeyParams) (hsel : selectByLength s.keyLen.toNat = some p) :
      CommandResult s .construct (constructed p s)
  | noInstance {i : Instr} {file : State → KeyFile} (hf : CryptFile i file) (hv : s.valid = false) :
      CommandResult s i (raise .noInstance s)
  | invalidInputLength {i : Instr} {file : State → KeyFile} (hf : CryptFile i file) (hv : s.valid = true)
      (hl : lengthAccepted s.len.toNat s.kLen.toNat = false) : CommandResult s i (raise .invalidInputLength s)
  | blocksWritten {i : Instr} {file : State → KeyFile} (hf : CryptFile i file) (hv : s.valid = true)
      (hl : lengthAccepted s.len.toNat s.kLen.toNat = true) : CommandResult s i (crypted (file s) s)

/-- The outcomes of the shared body. -/
theorem CryptFile.result {i : Instr} {file : State → KeyFile} (hf : CryptFile i file) {s t : State}
    (h : exec i s = .next t) : CommandResult s i t := by
  rw [hf.exec_eq] at h
  obtain ⟨hv, rfl⟩ | ⟨hv, hl, rfl⟩ | ⟨hv, hl, rfl⟩ := cryptCommand_cases h
  · exact .noInstance hf hv
  · exact .invalidInputLength hf hv hl
  · exact .blocksWritten hf hv hl

/-- Every outcome of a command is one of those listed. -/
theorem exec_result {i : Instr} {s t : State} (h : exec i s = .next t) : CommandResult s i t := by
  cases i with
  | construct =>
    obtain ⟨hsel, rfl⟩ | ⟨p, hsel, rfl⟩ := execConstruct_cases h
    · exact .invalidKeyLength hsel
    · exact .installed p hsel
  | encrypt => exact CryptFile.encrypt.result h
  | decrypt => exact CryptFile.decrypt.result h

/-- Every outcome listed is one of the command. -/
theorem CommandResult.exec_eq {i : Instr} {s t : State} (h : CommandResult s i t) : exec i s = .next t := by
  cases h with
  | invalidKeyLength hsel => exact exec_construct_of_illegal hsel
  | installed p hsel => exact exec_construct_of_legal hsel
  | noInstance hf hv => exact (hf.exec_eq s).trans (cryptCommand_of_not_valid _ hv)
  | invalidInputLength hf hv hl => exact (hf.exec_eq s).trans (cryptCommand_of_refused _ hv hl)
  | blocksWritten hf hv hl => exact (hf.exec_eq s).trans (cryptCommand_of_accepted _ hv hl)

/-- A command that leaves `ERR` 0 and has a key file has written the blocks (R25). -/
theorem CryptFile.crypted_of_err_zero {i : Instr} {file : State → KeyFile} (hf : CryptFile i file) {s t : State}
    (h : exec i s = .next t) (herr : t.err = 0) :
    s.valid = true ∧ lengthAccepted s.len.toNat s.kLen.toNat = true ∧ t = crypted (file s) s := by
  rw [hf.exec_eq] at h
  obtain ⟨-, rfl⟩ | ⟨-, -, rfl⟩ | accepted := cryptCommand_cases h
  · exact absurd (show (4 : BitVec 3) = 0 from herr) (by decide)
  · exact absurd (show (2 : BitVec 3) = 0 from herr) (by decide)
  · exact accepted

/-- Settles O42: the two error branches of the shared body. -/
theorem cryptErrorsInOrder : Obligations.CryptErrorsInOrder := by
  intro i hi s
  obtain ⟨file, hf⟩ := exists_cryptFile hi
  refine ⟨fun hv => (CommandResult.noInstance hf hv).exec_eq, fun hv hlen => ?_⟩
  exact (CommandResult.invalidInputLength hf hv ((acceptedLengths.1 _ _).2 hlen)).exec_eq

/-- Settles O45: neither the checks nor the blocks read `KEY`, `KEYLEN` or the other file, so each outcome is that of
the changed state. -/
theorem cryptIgnoresKeyRegisters : Obligations.CryptIgnoresKeyRegisters := by
  intro s key n file
  refine ⟨fun t h => ?encrypt, fun t h => ?decrypt⟩
  case encrypt =>
    obtain ⟨hv, rfl⟩ | ⟨hv, hl, rfl⟩ | ⟨hv, hl, rfl⟩ := cryptCommand_cases h
    · exact cryptCommand_of_not_valid (s := { s with key := key, keyLen := n, dk := file }) _ hv
    · exact cryptCommand_of_refused (s := { s with key := key, keyLen := n, dk := file }) _ hv hl
    · exact cryptCommand_of_accepted (s := { s with key := key, keyLen := n, dk := file }) _ hv hl
  case decrypt =>
    obtain ⟨hv, rfl⟩ | ⟨hv, hl, rfl⟩ | ⟨hv, hl, rfl⟩ := cryptCommand_cases h
    · exact cryptCommand_of_not_valid (s := { s with key := key, keyLen := n, ek := file }) _ hv
    · exact cryptCommand_of_refused (s := { s with key := key, keyLen := n, ek := file }) _ hv hl
    · exact cryptCommand_of_accepted (s := { s with key := key, keyLen := n, ek := file }) _ hv hl

/-! ## The blocks of `OUT` -/

/-- All that ENCRYPT and DECRYPT change when they succeed (R155). -/
theorem crypted_frame (file : KeyFile) (s : State) :
    crypted file s = { s with outBuf := (crypted file s).outBuf, err := 0 } := rfl

theorem wf_crypted (file : KeyFile) {s : State} (hw : Memory.wf s.outBuf) : Memory.wf (crypted file s).outBuf :=
  wf_cryptBlocks hw _ _ _ (blocks_fit s)

/-- Each block below `LEN` is the `Crypt` of the block of `IN` at the same address (R157). -/
theorem readBlock_crypted (file : KeyFile) {s : State} (hw : Memory.wf s.outBuf) {b : Nat} (hb : b < s.len.toNat / 16) :
    Memory.readBlock (crypted file s).outBuf (16 * b) =
      crypt (Memory.readBlock s.inBuf (16 * b)) file s.rounds.toNat := by
  refine block_ext fun k hk => ?_
  rw [Memory.byteOf_readBlock _ _ hk, read_crypted file hw, if_pos (by omega), show (16 * b + k) / 16 = b by omega,
    show (16 * b + k) % 16 = k by omega]

/-- No byte from `16 * (LEN / 16)` on is written (R157). -/
theorem read_crypted_above (file : KeyFile) {s : State} (hw : Memory.wf s.outBuf) {a : Nat}
    (ha : 16 * (s.len.toNat / 16) ≤ a) : Memory.read (crypted file s).outBuf a = Memory.read s.outBuf a := by
  rw [read_crypted file hw, if_neg (by omega)]

/-- The shared body with an installed key and an accepted length: every block below `LEN` and nothing else (R155,
R157, R158). -/
theorem cryptCommand_writes_every_block (file : KeyFile) {s : State} (hw : Memory.wf s.outBuf) (hv : s.valid = true)
    (hl : lengthAccepted s.len.toNat s.kLen.toNat = true) :
    ∃ t, cryptCommand file s = .next t ∧
      (∀ i < s.len.toNat / 16,
        Memory.readBlock t.outBuf (16 * i) = crypt (Memory.readBlock s.inBuf (16 * i)) file s.rounds.toNat) ∧
      (∀ a, s.len.toNat ≤ a → Memory.read t.outBuf a = Memory.read s.outBuf a) ∧ t.err = 0 ∧
      t = { s with outBuf := t.outBuf, err := 0 } :=
  ⟨crypted file s, cryptCommand_of_accepted file hv hl, fun _ hi => readBlock_crypted file hw hi,
    fun _ ha => read_crypted_above file hw (by omega), rfl, crypted_frame file s⟩

/-- Settles O40: the shared body on the encryption keys. -/
theorem encryptWritesEveryBlock : Obligations.EncryptWritesEveryBlock :=
  fun s hw hv hl => cryptCommand_writes_every_block s.ek hw hv hl

/-- Settles O41: the shared body on the decryption keys. -/
theorem decryptWritesEveryBlock : Obligations.DecryptWritesEveryBlock :=
  fun s hw hv hl => cryptCommand_writes_every_block s.dk hw hv hl

/-- Settles O43: the errors write `ERR` alone; a success writes `ERR` and the bytes below `16 * (LEN / 16)`, each of
which lies in a block that the statement names. -/
theorem encryptAndDecryptFrame : Obligations.EncryptAndDecryptFrame := by
  intro i hi s t hw h
  obtain ⟨file, hf⟩ := exists_cryptFile hi
  rw [hf.exec_eq] at h
  obtain ⟨-, rfl⟩ | ⟨-, -, rfl⟩ | ⟨hv, hl, rfl⟩ := cryptCommand_cases h
  · exact ⟨rfl, rfl, rfl, rfl, rfl, rfl, rfl, rfl, rfl, rfl, fun _ => rfl, fun _ _ => rfl⟩
  · exact ⟨rfl, rfl, rfl, rfl, rfl, rfl, rfl, rfl, rfl, rfl, fun _ => rfl, fun _ _ => rfl⟩
  · refine ⟨rfl, rfl, rfl, rfl, rfl, rfl, rfl, rfl, rfl, rfl, fun _ => rfl, fun a ha => read_crypted_above _ hw ?_⟩
    by_contra hlt
    exact ha ⟨hv, hl, a / 16, by omega, by omega, by omega⟩

/-- Settles O44: each output block is `Crypt` of its own input block under the file both states hold. -/
theorem blocksAreIndependent : Obligations.BlocksAreIndependent := by
  intro i hi s s' t t' hw hw' hek hdk hrounds h h' herr herr' a b ha hb hsame k hk
  obtain ⟨file, hf⟩ := exists_cryptFile hi
  obtain ⟨-, -, rfl⟩ := hf.crypted_of_err_zero h herr
  obtain ⟨-, -, rfl⟩ := hf.crypted_of_err_zero h' herr'
  have hblock : Memory.readBlock (crypted (file s) s).outBuf (16 * a) =
      Memory.readBlock (crypted (file s') s').outBuf (16 * b) := by
    rw [readBlock_crypted _ hw ha, readBlock_crypted _ hw' hb, Memory.readBlock_congr hsame, hf.congr hek hdk, hrounds]
  rw [← Memory.byteOf_readBlock _ _ hk, ← Memory.byteOf_readBlock _ _ hk, hblock]

/-! ## A command repeated -/

/-- A round-key file is its seventeen entries. -/
theorem KeyFile.ext_entry {file file' : KeyFile} (h : ∀ i < 17, KeyFile.entry file i = KeyFile.entry file' i) :
    file = file' := by
  refine Vector.ext fun i hi => ?_
  simpa only [KeyFile.entry, hi, dif_pos] using h i hi

/-- Writing the same first entries again changes nothing. -/
theorem KeyFile.writeFirst_writeFirst (file : KeyFile) (f : Nat → Block) (n : Nat) :
    KeyFile.writeFirst (KeyFile.writeFirst file f n) f n = KeyFile.writeFirst file f n :=
  KeyFile.ext_entry fun i hi => by
    rw [KeyFile.entry_writeFirst _ _ _ hi, KeyFile.entry_writeFirst _ _ _ hi]
    split <;> rfl

/-- A successful CONSTRUCT repeated finds the same key and writes the same entries. -/
theorem constructed_constructed (p : KeyParams) (s : State) : constructed p (constructed p s) = constructed p s := by
  have hek : (constructed p (constructed p s)).ek = (constructed p s).ek := KeyFile.writeFirst_writeFirst _ _ _
  have hdk : (constructed p (constructed p s)).dk = (constructed p s).dk := KeyFile.writeFirst_writeFirst _ _ _
  calc constructed p (constructed p s)
    _ = { constructed p s with
          ek := (constructed p (constructed p s)).ek, dk := (constructed p (constructed p s)).dk } := rfl
    _ = constructed p s := by rw [hek, hdk]

/-- The blocks written again from the same input are the same bytes. -/
theorem crypted_crypted (file : KeyFile) {s : State} (hw : Memory.wf s.outBuf) :
    crypted file (crypted file s) = crypted file s := by
  have hout : (crypted file (crypted file s)).outBuf = (crypted file s).outBuf := by
    refine Memory.ext_read (wf_crypted file (wf_crypted file hw)) (wf_crypted file hw) fun a => ?_
    by_cases ha : a < 16 * (s.len.toNat / 16)
    · exact (read_crypted file (wf_crypted file hw) a).trans ((if_pos ha).trans
        ((read_crypted file hw a).trans (if_pos ha)).symm)
    · exact read_crypted_above file (wf_crypted file hw) (Nat.le_of_not_lt ha)
  calc crypted file (crypted file s)
    _ = { crypted file s with outBuf := (crypted file (crypted file s)).outBuf } := rfl
    _ = crypted file s := by rw [hout]

/-- Settles O49: each outcome keeps the condition it has, and leads again to the state it left. -/
theorem repeatedCommandChangesNothing : Obligations.RepeatedCommandChangesNothing := by
  intro i s t hw h
  cases exec_result h with
  | invalidKeyLength hsel => exact exec_construct_of_illegal (s := raise .invalidKeyLength s) hsel
  | installed p hsel =>
    exact (exec_construct_of_legal (s := constructed p s) hsel).trans (congrArg _ (constructed_constructed p s))
  | noInstance hf hv => exact (CommandResult.noInstance (s := raise .noInstance s) hf hv).exec_eq
  | invalidInputLength hf hv hl =>
    exact (CommandResult.invalidInputLength (s := raise .invalidInputLength s) hf hv hl).exec_eq
  | blocksWritten hf hv hl =>
    rw [(CommandResult.blocksWritten (s := crypted _ s) hf hv hl).exec_eq,
      hf.congr (s := s) (s' := crypted _ s) rfl rfl, crypted_crypted _ hw]

end Sys2Proof.Machine
end

section
/-! The encoder, the registers and the steps of the host port, with the obligations O2, O3, O5, O6, O8 to O11 and O13
(spec/10_state.md R23, R25 and R28, spec/30_encoding.md R72 and R76). -/

namespace Sys2Proof.Machine

/-! ## The encoder -/

/-- Decoding the word of a command gives the command (R72). -/
theorem decode_encode (i : Instr) : decode (encode i) = .ok i := by
  cases i <;> rfl

/-- Only the word of a command decodes to it (R72, R74). -/
theorem encode_of_decode_ok {c : Byte} {i : Instr} (h : decode c = .ok i) : encode i = c := by
  have of_word (j : Instr) (hc : c = encode j) : encode i = c := by
    rw [hc, decode_encode] at h
    rw [hc, Except.ok.inj h]
  by_cases h1 : c = 0x01
  · exact of_word .construct h1
  by_cases h2 : c = 0x02
  · exact of_word .encrypt h2
  by_cases h3 : c = 0x03
  · exact of_word .decrypt h3
  rw [decode_reserved h1 h2 h3] at h
  exact absurd h (by simp)

/-- Settles O2: the three words are decoded, and no other byte is. -/
theorem decodeInvertsEncode : Obligations.DecodeInvertsEncode :=
  ⟨decode_encode, fun _ _ => encode_of_decode_ok⟩

/-- A code is reserved exactly where R74 lists it. -/
theorem decode_eq_error_iff (c : Byte) : (∃ e, decode c = .error e) ↔ c = 0 ∨ 4 ≤ c.toNat := by
  constructor
  · rintro ⟨e, he⟩
    by_contra hnot
    obtain ⟨h0, h4⟩ := not_or.1 hnot
    have hcmd : ∃ i, c = encode i := by
      have number (k : Byte) (h : c.toNat = k.toNat) : c = k := BitVec.eq_of_toNat_eq h
      have hpos : c.toNat ≠ 0 := fun h => h0 (number 0 h)
      obtain h | h | h : c.toNat = 1 ∨ c.toNat = 2 ∨ c.toNat = 3 := by omega
      · exact ⟨.construct, number 1 h⟩
      · exact ⟨.encrypt, number 2 h⟩
      · exact ⟨.decrypt, number 3 h⟩
    obtain ⟨i, rfl⟩ := hcmd
    rw [decode_encode] at he
    exact absurd he (by simp)
  · intro h
    refine ⟨.reservedCode c, decode_reserved ?_ ?_ ?_⟩
    all_goals
      rintro rfl
      revert h
      decide

/-- Settles O3: the step issues the code written, which decodes to the command. -/
theorem stepRunsDecodedCommand : Obligations.StepRunsDecodedCommand := by
  refine ⟨fun s v rest i hp hdec => ?written, fun s w i hdec => ?fetched⟩
  case written => exact (step_of_pending_cmd hp).trans (issue_of_decode_ok hdec _)
  case fetched =>
    have hok : decode (BitVec.ofNat 8 (tableWord 8 w).toNat) = .ok i := by
      rw [BitVec.ofNat_toNat, BitVec.setWidth_eq]
      unfold decodeTableWord at hdec
      split at hdec
      · next h => rw [h, Option.some.inj hdec]
      · exact absurd hdec (by simp)
    exact (step_of_pending_cmd (s := s.withFetchWord 8 w) rfl).trans (issue_of_decode_ok hok _)

/-! ## Registers -/

/-- Settles O8: the number of each register names it, and a number above 37 names none. -/
theorem registerNumbersReadAsTabled : Obligations.RegisterNumbersReadAsTabled := by
  refine fun s => ⟨fun n h => ?key, rfl, rfl, rfl, rfl, rfl, rfl, fun n => readReg_of_gt s⟩
  case key =>
    have hreg : regOfNumber n = some (.key ⟨n, h⟩) := dif_pos h
    rw [readReg, hreg]
    rfl

/-- Settles O9: the byte is checked for each value of its two elements. -/
theorem statusByteHoldsValidAndErr : Obligations.StatusByteHoldsValidAndErr := by
  have fields : ∀ (v : Bool) (e : BitVec 3),
      (0#4 ++ e ++ BitVec.ofBool v).getLsbD 0 = v ∧ (0#4 ++ e ++ BitVec.ofBool v).extractLsb' 1 3 = e ∧
        (0#4 ++ e ++ BitVec.ofBool v).extractLsb' 4 4 = 0 ∧
        (0#4 ++ e ++ BitVec.ofBool v).toNat = v.toNat + 2 * e.toNat := by
    decide
  exact fun s => fields s.valid s.err

/-- A register read does not see the round-key files: no number names them (R29). -/
theorem readReg_with_keys (s : State) (ek dk : KeyFile) (n : Nat) :
    readReg { s with ek := ek, dk := dk } n = readReg s n := by
  unfold readReg
  split <;> rfl

/-! ## Steps -/

/-- Settles O5: with nothing pending a step is idle. -/
theorem idleEngineKeepsState : Obligations.IdleEngineKeepsState := by
  intro s h
  rw [step, performNext, h]

/-- Every command answers a next state (R183). -/
theorem exec_completes (i : Instr) (s : State) : ∃ t, exec i s = .next t := by
  have body (file : KeyFile) : ∃ t, cryptCommand file s = .next t := by
    cases hv : s.valid with
    | false => exact ⟨_, cryptCommand_of_not_valid file hv⟩
    | true =>
      cases hl : lengthAccepted s.len.toNat s.kLen.toNat with
      | false => exact ⟨_, cryptCommand_of_refused file hv hl⟩
      | true => exact ⟨_, cryptCommand_of_accepted file hv hl⟩
  cases i with
  | construct =>
    cases hsel : selectByLength s.keyLen.toNat with
    | none => exact ⟨_, exec_construct_of_illegal hsel⟩
    | some p => exact ⟨_, exec_construct_of_legal hsel⟩
  | encrypt => exact body s.ek
  | decrypt => exact body s.dk

/-- Every write to `CMD` answers a next state (R74, R183). -/
theorem issue_completes (c : Byte) (s : State) : ∃ t, issue c s = .next t := by
  cases h : decode c with
  | ok i => rw [issue_of_decode_ok h]; exact exec_completes i s
  | error e => exact ⟨_, issue_of_decode_error h s⟩

/-- Every host operation answers a next state (R193). -/
theorem perform_completes (op : HostOp) (s : State) : ∃ t, perform op s = .next t := by
  cases op with
  | wr n v =>
    change ∃ t, writeReg n v s = .next t
    unfold writeReg
    split
    case h_4 => exact issue_completes _ s
    all_goals exact ⟨_, rfl⟩
  | rd n => exact ⟨_, rfl⟩
  | wri a v => exact ⟨_, rfl⟩
  | rdi a => exact ⟨_, rfl⟩
  | rdo a => exact ⟨_, rfl⟩
  | wriRdo a => exact ⟨_, rfl⟩

/-- Settles O6: a step is idle or performs a host operation. -/
theorem everyStepCompletes : Obligations.EveryStepCompletes := by
  refine ⟨fun s => ?_, exec_completes⟩
  cases hp : s.pending with
  | nil => exact ⟨s, idleEngineKeepsState s hp⟩
  | cons op rest => rw [step_of_pending hp]; exact perform_completes op _

/-- Settles O11: each branch of each command overwrites `ERR` and tests other elements only. -/
theorem everyCommandWriteOverwritesErr : Obligations.EveryCommandWriteOverwritesErr := by
  intro c s e
  cases h : decode c with
  | error r => rw [issue_of_decode_error h, issue_of_decode_error h]; rfl
  | ok i =>
    rw [issue_of_decode_ok h, issue_of_decode_ok h]
    obtain ⟨t, ht⟩ := exec_completes i s
    rw [ht]
    cases exec_result ht with
    | invalidKeyLength hsel => exact exec_construct_of_illegal (s := { s with err := e }) hsel
    | installed p hsel => exact exec_construct_of_legal (s := { s with err := e }) hsel
    | noInstance hf hv => exact (CommandResult.noInstance (s := { s with err := e }) hf hv).exec_eq
    | invalidInputLength hf hv hl =>
      exact (CommandResult.invalidInputLength (s := { s with err := e }) hf hv hl).exec_eq
    | blocksWritten hf hv hl =>
      rw [(CommandResult.blocksWritten (s := { s with err := e }) hf hv hl).exec_eq,
        hf.congr (s := s) (s' := { s with err := e }) rfl rfl]
      rfl

/-- What the host operations do: the operation and the next state of each (R76). -/
inductive PortResult (s : State) : HostOp → State → Prop where
  | command (v : Nat) {t : State} (h : issue (BitVec.ofNat 8 v) s = .next t) : PortResult s (.wr 34 v) t
  | key {n : Nat} (hn : n < 32) (v : Nat) : PortResult s (.wr n v) (s.setKey ⟨n, hn⟩ (BitVec.ofNat 8 v))
  | keyLen (v : Nat) : PortResult s (.wr 32 v) (s.setKeyLen (BitVec.ofNat 8 v))
  | len (v : Nat) : PortResult s (.wr 33 v) (s.setLen (BitVec.ofNat Config.lenW v))
  | ignored {n : Nat} (hn : 34 < n) (v : Nat) : PortResult s (.wr n v) s
  | rd (n : Nat) : PortResult s (.rd n) (s.pushReturned (readReg s n))
  | wri (a : BitVec Config.lenW) (v : Byte) : PortResult s (.wri a v) (s.setIn a.toNat v)
  | rdi (a : BitVec Config.lenW) : PortResult s (.rdi a) (s.pushReturned (Memory.read s.inBuf a.toNat).toNat)
  | rdo (a : BitVec Config.lenW) : PortResult s (.rdo a) (s.pushReturned (Memory.read s.outBuf a.toNat).toNat)
  | wriRdo (a : BitVec Config.lenW) : PortResult s (.wriRdo a)
      ((s.pushReturned (Memory.read s.outBuf a.toNat).toNat).setIn a.toNat (Memory.read s.outBuf a.toNat))

/-- Every outcome of a host operation is one of those listed. -/
theorem perform_result {op : HostOp} {s t : State} (h : perform op s = .next t) : PortResult s op t := by
  obtain ⟨v, rfl, hissue⟩ | ⟨n, v, hn, rfl, rfl⟩ | ⟨v, rfl, rfl⟩ | ⟨v, rfl, rfl⟩ | ⟨n, v, hn, rfl, rfl⟩ |
    ⟨n, rfl, rfl⟩ | ⟨a, v, rfl, rfl⟩ | ⟨a, rfl, rfl⟩ | ⟨a, rfl, rfl⟩ | ⟨a, rfl, rfl⟩ := perform_cases h
  · exact .command v hissue
  · exact .key hn v
  · exact .keyLen v
  · exact .len v
  · exact .ignored hn v
  · exact .rd n
  · exact .wri a v
  · exact .rdi a
  · exact .rdo a
  · exact .wriRdo a

/-- Every outcome listed is one of the operation. -/
theorem PortResult.perform_eq {op : HostOp} {s t : State} (h : PortResult s op t) : perform op s = .next t := by
  cases h with
  | command v hissue => exact hissue
  | key hn v => exact writeReg_key hn v s
  | keyLen v => exact writeReg_keyLen v s
  | len v => exact writeReg_len v s
  | ignored hn v => exact writeReg_ignored hn v _
  | rd | wri | rdi | rdo | wriRdo => rfl

/-- The step of a pending host operation is its outcome with the operation taken off the list. -/
theorem step_result {s t : State} {op : HostOp} {rest : List HostOp} (hp : s.pending = op :: rest)
    (h : step s = .next t) : PortResult (s.setPending rest) op t :=
  perform_result ((step_of_pending hp).symm.trans h)

/-- Settles O10: the read returns what `IN` holds after the write, which a canonical memory gives by its law for a read
after a write. -/
theorem inputReadsReturnLatestWrite : Obligations.InputReadsReturnLatestWrite := by
  intro s a b v rest t u hw hp ht hu
  cases step_result hp ht
  cases step_result (s := (s.setPending (.rdi b :: rest)).setIn a.toNat v) rfl hu
  have hread : Memory.read (Memory.write s.inBuf a.toNat v) b.toNat =
      if b = a then v else Memory.read s.inBuf b.toNat := by
    rw [Memory.read_write hw]
    exact if_congr BitVec.toNat_inj rfl rfl
  exact congrArg (fun x : Byte => x.toNat :: s.returned) hread

/-- Any operation but a write to `CMD` does the same with other round-key files in place (R29, R193). -/
theorem PortResult.with_keys {op : HostOp} {s t : State} (h : PortResult s op t) (hcmd : ∀ v, op ≠ .wr 34 v)
    (ek dk : KeyFile) :
    t.ek = s.ek ∧ t.dk = s.dk ∧ PortResult { s with ek := ek, dk := dk } op { t with ek := ek, dk := dk } := by
  cases h with
  | command v hissue => exact absurd rfl (hcmd v)
  | key hn v => exact ⟨rfl, rfl, .key hn v⟩
  | keyLen v => exact ⟨rfl, rfl, .keyLen v⟩
  | len v => exact ⟨rfl, rfl, .len v⟩
  | ignored hn v => exact ⟨rfl, rfl, .ignored hn v⟩
  | rd n =>
    rw [← readReg_with_keys s ek dk n]
    exact ⟨rfl, rfl, .rd n⟩
  | wri a v => exact ⟨rfl, rfl, .wri a v⟩
  | rdi a => exact ⟨rfl, rfl, .rdi a⟩
  | rdo a => exact ⟨rfl, rfl, .rdo a⟩
  | wriRdo a => exact ⟨rfl, rfl, .wriRdo a⟩

/-- Settles O13: the step of the state with the other files is the same outcome. -/
theorem hostCannotReachRoundKeys : Obligations.HostCannotReachRoundKeys := by
  intro s t op rest ek dk hp hcmd h
  obtain ⟨hek, hdk, hresult⟩ := (step_result hp h).with_keys hcmd ek dk
  exact ⟨hek, hdk, (step_of_pending (s := { s with ek := ek, dk := dk }) hp).trans hresult.perform_eq⟩

end Sys2Proof.Machine
end

section
/-! Which operation writes which element, and the errors commands report, with the obligations O12, O50 and O51
(spec/10_state.md R26 and R38, spec/60_exceptions.md R181 and R184). -/

namespace Sys2Proof.Machine

/-! ## Writers -/

/-- What a write of `c` to `CMD` may change, and when (R38): everything the host alone writes is kept, and each other
element changes only under the tabled command. -/
structure CommandWrites (c : Byte) (s t : State) : Prop where
  frame : t =
    { s with
      outBuf := t.outBuf, valid := t.valid, err := t.err, rounds := t.rounds, kLen := t.kLen, ek := t.ek, dk := t.dk }
  out : ∀ a, Memory.read t.outBuf a ≠ Memory.read s.outBuf a →
    a < s.len.toNat ∧ t.err = 0 ∧ (decode c = .ok .encrypt ∨ decode c = .ok .decrypt)
  valid : t.valid ≠ s.valid → decode c = .ok .construct
  keys : t.rounds ≠ s.rounds ∨ t.kLen ≠ s.kLen ∨ t.ek ≠ s.ek ∨ t.dk ≠ s.dk →
    t.valid = true ∧ t.err = 0 ∧ decode c = .ok .construct
  entries : ∀ i < 17, t.ek.entry i ≠ s.ek.entry i ∨ t.dk.entry i ≠ s.dk.entry i → i ≤ t.rounds.toNat
  error : t.err ≠ 0 → t = { s with err := t.err, valid := t.valid }

/-- No disjunct of a change of the installed keys holds where none of them changed. -/
theorem no_key_changed {s : State} {P : Prop}
    (h : s.rounds ≠ s.rounds ∨ s.kLen ≠ s.kLen ∨ s.ek ≠ s.ek ∨ s.dk ≠ s.dk) : P := by
  obtain h | h | h | h := h <;> exact absurd rfl h

/-- No disjunct of a change of an entry holds where the files did not change. -/
theorem no_entry_changed {s : State} {i : Nat} {P : Prop}
    (h : s.ek.entry i ≠ s.ek.entry i ∨ s.dk.entry i ≠ s.dk.entry i) : P := by
  obtain h | h := h <;> exact absurd rfl h

/-- A change of `ERR` alone is allowed to every command. -/
theorem commandWrites_setErr (c : Byte) (s : State) (e : BitVec 3) : CommandWrites c s (s.setErr e) where
  frame := rfl
  out _ h := absurd rfl h
  valid h := absurd rfl h
  keys h := no_key_changed (s := s) h
  entries _ _ h := no_entry_changed (s := s) h
  error _ := rfl

/-- Each outcome of a command writes what R38 tables for it. -/
theorem CommandResult.writes {i : Instr} {s t : State} (h : CommandResult s i t) {c : Byte} (hc : decode c = .ok i)
    (hw : Memory.wf s.outBuf) : CommandWrites c s t := by
  cases h with
  | invalidKeyLength hsel =>
    exact { frame := rfl, out := fun _ h => absurd rfl h, valid := fun _ => hc, keys := no_key_changed (s := s)
            entries := fun _ _ => no_entry_changed (s := s), error := fun _ => rfl }
  | installed p hsel =>
    refine { frame := rfl, out := fun _ h => absurd rfl h, valid := fun _ => hc, keys := fun _ => ⟨rfl, rfl, hc⟩
             entries := fun i hi hne => ?_, error := fun h => absurd rfl h }
    by_contra habove
    rw [constructed_rounds hsel] at habove
    obtain ⟨hek, hdk⟩ := constructed_entries_above p s (Nat.lt_of_not_le habove) hi
    exact hne.elim (absurd hek) (absurd hdk)
  | noInstance hf hv => exact commandWrites_setErr c s 4
  | invalidInputLength hf hv hl => exact commandWrites_setErr c s 2
  | blocksWritten hf hv hl =>
    refine { frame := rfl, out := fun a hne => ⟨?_, rfl, ?_⟩, valid := fun h => absurd rfl h
             keys := no_key_changed (s := s), entries := fun _ _ => no_entry_changed (s := s)
             error := fun h => absurd rfl h }
    · by_contra habove
      exact hne (read_crypted_above _ hw (by omega))
    · cases hf with
      | encrypt => exact .inl hc
      | decrypt => exact .inr hc

/-- Every write to `CMD` writes what R38 tables. -/
theorem issue_writes {c : Byte} {s t : State} (hw : Memory.wf s.outBuf) (h : issue c s = .next t) :
    CommandWrites c s t := by
  obtain ⟨i, hc, hexec⟩ | ⟨e, -, rfl⟩ := issue_cases h
  · exact (exec_result hexec).writes hc hw
  · exact commandWrites_setErr c s 5

/-- What a host operation other than a command may change, and when (R38). -/
structure PlainWrites (op : HostOp) (s t : State) : Prop where
  frame : t = { s with key := t.key, keyLen := t.keyLen, len := t.len, inBuf := t.inBuf, returned := t.returned }
  key : t.key ≠ s.key → ∃ n v, n < 32 ∧ op = .wr n v
  keyLen : t.keyLen ≠ s.keyLen → ∃ v, op = .wr 32 v
  len : t.len ≠ s.len → ∃ v, op = .wr 33 v
  inBuf : t.inBuf ≠ s.inBuf → ∃ a, (∃ v, op = .wri a v) ∨ op = .wriRdo a

/-- A host operation is a command or writes what R38 tables for the host. -/
theorem PortResult.writes {op : HostOp} {s t : State} (h : PortResult s op t) :
    (∃ v, op = .wr 34 v ∧ issue (BitVec.ofNat 8 v) s = .next t) ∨ ((∀ v, op ≠ .wr 34 v) ∧ PlainWrites op s t) := by
  cases h with
  | command v hissue => exact .inl ⟨v, rfl, hissue⟩
  | @key n hn v =>
    refine .inr ⟨fun w hw => ?_, rfl, fun _ => ⟨n, v, hn, rfl⟩, absurd rfl, absurd rfl, absurd rfl⟩
    cases hw
    exact absurd hn (by decide)
  | keyLen v => exact .inr ⟨by simp, rfl, absurd rfl, fun _ => ⟨v, rfl⟩, absurd rfl, absurd rfl⟩
  | len v => exact .inr ⟨by simp, rfl, absurd rfl, absurd rfl, fun _ => ⟨v, rfl⟩, absurd rfl⟩
  | @ignored n hn v =>
    refine .inr ⟨fun w hw => ?_, rfl, absurd rfl, absurd rfl, absurd rfl, absurd rfl⟩
    cases hw
    exact absurd hn (by decide)
  | rd n => exact .inr ⟨by simp, rfl, absurd rfl, absurd rfl, absurd rfl, absurd rfl⟩
  | wri a v => exact .inr ⟨by simp, rfl, absurd rfl, absurd rfl, absurd rfl, fun _ => ⟨a, .inl ⟨v, rfl⟩⟩⟩
  | rdi a => exact .inr ⟨by simp, rfl, absurd rfl, absurd rfl, absurd rfl, absurd rfl⟩
  | rdo a => exact .inr ⟨by simp, rfl, absurd rfl, absurd rfl, absurd rfl, absurd rfl⟩
  | wriRdo a => exact .inr ⟨by simp, rfl, absurd rfl, absurd rfl, absurd rfl, fun _ => ⟨a, .inr rfl⟩⟩

/-- Settles O12: the operation is a command, whose writes are `CommandWrites`, or one of the host's, whose writes are
`PlainWrites`; each keeps what the other writes. -/
theorem onlyTabledWritersChangeState : Obligations.OnlyTabledWritersChangeState := by
  intro s t op rest hw hp h
  obtain ⟨v, rfl, hissue⟩ | ⟨hcmd, frame, key, keyLen, len, inBuf⟩ := (step_result hp h).writes
  · obtain ⟨frame, out, valid, keys, entries, error⟩ := issue_writes (s := s.setPending rest) hw hissue
    refine ⟨fun hne => ?key, fun hne => ?keyLen, fun hne => ?len, fun hne => ?inBuf, fun a hne => ?out,
      fun hne => ⟨v, rfl, valid hne⟩, fun _ => ⟨v, rfl⟩, fun hne => ?keys, entries, fun _ _ herr => error herr⟩
    case key => exact absurd (congrArg State.key frame) hne
    case keyLen => exact absurd (congrArg State.keyLen frame) hne
    case len => exact absurd (congrArg State.len frame) hne
    case inBuf => exact absurd (congrArg State.inBuf frame) hne
    case out =>
      obtain ⟨hlt, herr, hcrypt⟩ := out a hne
      exact ⟨hlt, herr, v, rfl, hcrypt⟩
    case keys =>
      obtain ⟨hvalid, herr, hconstruct⟩ := keys hne
      exact ⟨hvalid, herr, v, rfl, hconstruct⟩
  · have hout : t.outBuf = s.outBuf := (congrArg State.outBuf frame).trans rfl
    have hvalid : t.valid = s.valid := (congrArg State.valid frame).trans rfl
    have herr : t.err = s.err := (congrArg State.err frame).trans rfl
    have hrounds : t.rounds = s.rounds := (congrArg State.rounds frame).trans rfl
    have hkLen : t.kLen = s.kLen := (congrArg State.kLen frame).trans rfl
    have hek : t.ek = s.ek := (congrArg State.ek frame).trans rfl
    have hdk : t.dk = s.dk := (congrArg State.dk frame).trans rfl
    rw [hout, hvalid, herr, hrounds, hkLen, hek, hdk]
    exact ⟨key, keyLen, len, inBuf, fun _ hne => absurd rfl hne, absurd rfl, absurd rfl, no_key_changed (s := s),
      fun _ _ => no_entry_changed (s := s), fun v hv => absurd hv (hcmd v)⟩

/-! ## Error codes -/

/-- The codes a command leaves in `ERR` (R181). -/
theorem CommandResult.err_mem {i : Instr} {s t : State} (h : CommandResult s i t) : t.err ∈ [0#3, 1#3, 2#3, 4#3] := by
  have code {e : BitVec 3} (he : e ∈ [0#3, 1#3, 2#3, 4#3]) (ht : t.err = e) : t.err ∈ [0#3, 1#3, 2#3, 4#3] := ht ▸ he
  cases h with
  | invalidKeyLength hsel => exact code (e := 1) (by decide) rfl
  | installed p hsel => exact code (e := 0) (by decide) rfl
  | noInstance hf hv => exact code (e := 4) (by decide) rfl
  | invalidInputLength hf hv hl => exact code (e := 2) (by decide) rfl
  | blocksWritten hf hv hl => exact code (e := 0) (by decide) rfl

/-- Settles O50: a code that decodes runs a command, which leaves another code than 5; every other code raises
IllegalCommand. -/
theorem errorCodesAsTabled : Obligations.ErrorCodesAsTabled := by
  refine ⟨rfl, rfl, rfl, rfl, rfl, fun i s t h => (exec_result h).err_mem, fun c s t h => ?_⟩
  rw [← decode_eq_error_iff]
  obtain ⟨i, hc, hexec⟩ | ⟨e, hc, rfl⟩ := issue_cases h
  · have hne : t.err ≠ 5 := fun h5 => absurd (h5 ▸ (exec_result hexec).err_mem) (by decide)
    exact ⟨fun h5 => absurd h5 hne, fun ⟨e, he⟩ => by simp [hc] at he⟩
  · exact ⟨fun _ => ⟨e, hc⟩, fun _ => rfl⟩

/-! ## No installed key -/

/-- Settles O51: with `VALID` 0 a command raises an error, which reads none of the four registers, or installs a key,
whose entries come from the presented key alone. -/
theorem noInstanceHidesItsRegisters : Obligations.NoInstanceHidesItsRegisters := by
  intro i s t t' ek dk r n hv h h'
  cases exec_result h with
  | invalidKeyLength hsel =>
    have hraise := exec_construct_of_illegal (s := { s with ek, dk, rounds := r, kLen := n }) hsel
    obtain rfl := Host.Outcome.next.inj (hraise.symm.trans h')
    exact ⟨rfl, fun hvalid => absurd hvalid Bool.false_ne_true⟩
  | installed p hsel =>
    have hinstall := exec_construct_of_legal (s := { s with ek, dk, rounds := r, kLen := n }) hsel
    obtain rfl := Host.Outcome.next.inj (hinstall.symm.trans h')
    refine ⟨rfl, fun _ => ⟨rfl, rfl, fun j hj => ?_⟩⟩
    rw [constructed_rounds hsel] at hj
    have hsel' : selectByLength (State.keyLen { s with ek, dk, rounds := r, kLen := n }).toNat = some p := hsel
    exact ⟨(constructed_ek_entry hsel' hj).trans (constructed_ek_entry hsel hj).symm,
      (constructed_dk_entry hsel' hj).trans (constructed_dk_entry hsel hj).symm⟩
  | noInstance hf _ =>
    have hraise := (CommandResult.noInstance (s := { s with ek, dk, rounds := r, kLen := n }) hf hv).exec_eq
    obtain rfl := Host.Outcome.next.inj (hraise.symm.trans h')
    exact ⟨rfl, fun hvalid => absurd (hvalid.symm.trans hv) (by decide)⟩
  | invalidInputLength hf hvalid _ => exact absurd (hvalid.symm.trans hv) (by decide)
  | blocksWritten hf hvalid _ => exact absurd (hvalid.symm.trans hv) (by decide)

end Sys2Proof.Machine
end

section
/-! The invariant of the engine holds after reset and every step keeps it, as every step keeps R154, with the
obligations O52 to O55 and O57 (spec/10_state.md R30, spec/45_block_driver.md R154, spec/60_exceptions.md R181,
spec/70_reset_and_hazards.md R200 and R205). -/

namespace Sys2Proof.Machine

/-! ## `STATUS` -/

/-- `STATUS` is legal where the byte its two elements make is one of the seven (R25, R181). -/
theorem statusInv_of_eq {s : State} {v : Bool} {e : BitVec 3} (hv : s.valid = v) (he : s.err = e)
    (h : 0#4 ++ e ++ BitVec.ofBool v ∈ [0x00#8, 0x01#8, 0x02#8, 0x05#8, 0x08#8, 0x0a#8, 0x0b#8]) : s.statusInv := by
  subst hv he
  exact h

/-- A reserved code leaves a legal `STATUS` with and without an installed key. -/
theorem statusInv_raise_illegalCommand (s : State) : (raise .illegalCommand s).statusInv := by
  cases hv : s.valid with
  | false => exact statusInv_of_eq (v := false) (e := 5) hv rfl (by decide)
  | true => exact statusInv_of_eq (v := true) (e := 5) hv rfl (by decide)

/-! ## The installed keys -/

/-- What R30 says of an installed key: the round count is even and in range, and the files are mirrored. -/
theorem mirrors_of_instanceInv {s : State} (h : s.instanceInv) (hv : s.valid = true) :
    Mirrors s.ek s.dk s.rounds.toNat ∧ s.rounds.toNat % 2 = 0 ∧ 2 ≤ s.rounds.toNat := by
  obtain ⟨hlen, hfirst, hlast, hinner⟩ := h hv
  have hrounds : s.rounds ∈ [12#8, 14#8, 16#8] := List.mem_map_of_mem (f := Prod.snd) hlen
  have range : ∀ r ∈ [12#8, 14#8, 16#8], r.toNat % 2 = 0 ∧ 2 ≤ r.toNat := by decide
  exact ⟨⟨hfirst, hlast, hinner⟩, range _ hrounds⟩

/-- A key that meets R30 decrypts what it encrypts (R154). -/
theorem decryptionInv_of_instanceInv {s : State} (h : s.instanceInv) : s.decryptionInv := fun hv p => by
  obtain ⟨hmirror, heven, hmin⟩ := mirrors_of_instanceInv h hv
  exact crypt_inverse_of_mirrors hmirror heven hmin p

/-- CONSTRUCT installs keys that meet R30 (R138, R139). -/
theorem instanceInv_constructed {s : State} {p : KeyParams} (hsel : selectByLength s.keyLen.toNat = some p) :
    (constructed p s).instanceInv := by
  intro _
  have hmirror := constructed_mirrors hsel
  have hlen : ((constructed p s).kLen, (constructed p s).rounds) ∈ [(16#8, 12#8), (24#8, 14#8), (32#8, 16#8)] := by
    have klen (k : Byte) (h : s.keyLen.toNat = k.toNat) : (constructed p s).kLen = k := BitVec.eq_of_toNat_eq h
    obtain ⟨hn, rfl⟩ | ⟨hn, rfl⟩ | ⟨hn, rfl⟩ := selectByLength_cases hsel
    · rw [klen 16 hn]; exact .head _
    · rw [klen 24 hn]; exact .tail _ (.head _)
    · rw [klen 32 hn]; exact .tail _ (.tail _ (.head _))
  rw [constructed_rounds hsel]
  exact ⟨hlen, hmirror.entry_zero, hmirror.entry_last, hmirror.entry_inner⟩

/-! ## The steps -/

/-- Every command keeps the invariant. -/
theorem exec_keeps_inv {i : Instr} {s t : State} (hs : s.Inv) (h : exec i s = .next t) : t.Inv := by
  obtain ⟨⟨hin, hout⟩, -, hkeys⟩ := hs
  cases exec_result h with
  | invalidKeyLength hsel =>
    exact ⟨⟨hin, hout⟩, statusInv_of_eq (v := false) (e := 1) rfl rfl (by decide),
      fun hv => absurd hv Bool.false_ne_true⟩
  | installed p hsel =>
    exact ⟨⟨hin, hout⟩, statusInv_of_eq (v := true) (e := 0) rfl rfl (by decide), instanceInv_constructed hsel⟩
  | noInstance hf hv => exact ⟨⟨hin, hout⟩, statusInv_of_eq (v := false) (e := 4) hv rfl (by decide), hkeys⟩
  | invalidInputLength hf hv hl => exact ⟨⟨hin, hout⟩, statusInv_of_eq (v := true) (e := 2) hv rfl (by decide), hkeys⟩
  | blocksWritten hf hv hl =>
    exact ⟨⟨hin, wf_crypted _ hout⟩, statusInv_of_eq (v := true) (e := 0) hv rfl (by decide), hkeys⟩

/-- Every write to `CMD` keeps the invariant. -/
theorem issue_keeps_inv {c : Byte} {s t : State} (hs : s.Inv) (h : issue c s = .next t) : t.Inv := by
  obtain ⟨i, -, hexec⟩ | ⟨e, -, rfl⟩ := issue_cases h
  · exact exec_keeps_inv hs hexec
  · obtain ⟨hmem, -, hkeys⟩ := hs
    exact ⟨hmem, statusInv_raise_illegalCommand s, hkeys⟩

/-- A host write to `IN` keeps the invariant: every address of the port is below `BUFSZ` (R55). -/
theorem setIn_keeps_inv {s : State} (hs : s.Inv) (a : BitVec Config.lenW) (v : Byte) : (s.setIn a.toNat v).Inv := by
  obtain ⟨⟨hin, hout⟩, hstatus, hkeys⟩ := hs
  exact ⟨⟨Memory.wf_write hin a.isLt v, hout⟩, hstatus, hkeys⟩

/-- Every host operation keeps the invariant: all but a write to `CMD` or to `IN` leave what it speaks of unchanged. -/
theorem PortResult.keeps_inv {op : HostOp} {s t : State} (h : PortResult s op t) (hs : s.Inv) : t.Inv := by
  cases h with
  | command v hissue => exact issue_keeps_inv hs hissue
  | key | keyLen | len | ignored | rd | rdi | rdo => exact hs
  | wri a v => exact setIn_keeps_inv hs a v
  | wriRdo a => exact setIn_keeps_inv (s := s.pushReturned _) hs a _

/-- Settles O54: an idle step keeps the state, any other is the outcome of a host operation. -/
theorem everyStepKeepsInvariant : Obligations.EveryStepKeepsInvariant := by
  intro s t hs h
  obtain ⟨-, rfl⟩ | ⟨op, rest, -, hperform⟩ := step_cases h
  · exact hs
  · exact (perform_result hperform).keeps_inv (s := s.setPending rest) hs

/-! ## Decryption -/

/-- Every command keeps R154: a CONSTRUCT that succeeds installs keys that have it, one that fails leaves no key, and
ENCRYPT and DECRYPT touch neither the files nor the round count. -/
theorem CommandResult.keeps_decryption {i : Instr} {s t : State} (h : CommandResult s i t) (hs : s.decryptionInv) :
    t.decryptionInv := by
  cases h with
  | invalidKeyLength hsel => exact fun hv => absurd hv Bool.false_ne_true
  | installed p hsel => exact fun _ => constructed_crypt_inverse hsel
  | noInstance | invalidInputLength | blocksWritten => exact hs

/-- Every host operation keeps R154: only a write to `CMD` reaches the keys. -/
theorem PortResult.keeps_decryption {op : HostOp} {s t : State} (h : PortResult s op t) (hs : s.decryptionInv) :
    t.decryptionInv := by
  cases h with
  | command v hissue =>
    obtain ⟨i, -, hexec⟩ | ⟨e, -, rfl⟩ := issue_cases hissue
    · exact (exec_result hexec).keeps_decryption hs
    · exact hs
  | key | keyLen | len | ignored | rd | wri | rdi | rdo | wriRdo => exact hs

/-- Settles O57: an idle step keeps the state, any other is the outcome of a host operation. -/
theorem everyStepKeepsDecryption : Obligations.EveryStepKeepsDecryption := by
  intro s t hs h
  obtain ⟨-, rfl⟩ | ⟨op, rest, -, hperform⟩ := step_cases h
  · exact hs
  · exact (perform_result hperform).keeps_decryption (s := s.setPending rest) hs

/-! ## Reset and runs -/

/-- Settles O52: `STATUS` is made of `VALID` and `ERR` alone. -/
theorem resetLeavesNoInstance : Obligations.ResetLeavesNoInstance := by
  refine ⟨⟨rfl, rfl, Memory.wf_nil, Memory.wf_nil⟩, rfl, fun s ⟨hv, herr, _, _⟩ => ⟨hv, herr, ?_⟩⟩
  rw [State.status, hv, herr]
  rfl

/-- Settles O53: `STATUS` is 0x00, and there is no installed key to speak of. -/
theorem invariantHoldsAfterReset : Obligations.InvariantHoldsAfterReset := by
  rintro s ⟨hv, herr, hin, hout⟩
  exact ⟨⟨hin, hout⟩, statusInv_of_eq hv herr (by decide), fun hvalid => absurd (hvalid.symm.trans hv) (by decide)⟩

/-- Every state of every run meets the invariant. -/
theorem inv_of_reachable {s : State} (h : Reachable s) : s.Inv := by
  induction h with
  | afterReset s hreset => exact invariantHoldsAfterReset s hreset
  | step s t _ hstep ih => exact everyStepKeepsInvariant s t ih hstep

/-- Settles O55: the invariant says it all, decryption following from R30. -/
theorem reachableInstancesAreSound : Obligations.ReachableInstancesAreSound := by
  intro s h
  obtain ⟨-, hstatus, hkeys⟩ := inv_of_reachable h
  exact ⟨hstatus, hkeys, fun hv p => (decryptionInv_of_instanceInv hkeys hv p).1⟩

end Sys2Proof.Machine
end

section
/-! The block driver step by step and the two commands one after the other, with the obligations O47 and O48
(spec/45_block_driver.md R159 and R160). -/

namespace Sys2Proof.Machine

/-! ## The commands undo each other -/

/-- The files of the two commands undo each other under the invariant (R154). -/
theorem crypt_crypt_of_cryptFiles {ij : Instr × Instr} {s : State}
    (hij : ij ∈ [(Instr.encrypt, Instr.decrypt), (Instr.decrypt, Instr.encrypt)]) (hs : s.decryptionInv)
    (hv : s.valid = true) :
    ∃ file file', CryptFile ij.1 file ∧ CryptFile ij.2 file' ∧
      ∀ p, crypt (crypt p (file s) s.rounds.toNat) (file' s) s.rounds.toNat = p := by
  simp only [List.mem_cons, List.not_mem_nil, or_false] at hij
  obtain rfl | rfl := hij
  · exact ⟨State.ek, State.dk, .encrypt, .decrypt, fun p => (hs hv p).1⟩
  · exact ⟨State.dk, State.ek, .decrypt, .encrypt, fun p => (hs hv p).2⟩

/-- Blocks written from what a command with the inverse file wrote are the blocks that command read (R159). -/
theorem read_crypted_of_crypted {file file' : KeyFile} {s s' : State} (hw : Memory.wf s.outBuf)
    (hw' : Memory.wf s'.outBuf) (hlen : s'.len = s.len) (hrounds : s'.rounds = s.rounds) (h16 : 16 ∣ s.len.toNat)
    (hundo : ∀ p, crypt (crypt p file s.rounds.toNat) file' s.rounds.toNat = p)
    (hinput : ∀ a < s.len.toNat, Memory.read s'.inBuf a = Memory.read (crypted file s).outBuf a) {a : Nat}
    (ha : a < s.len.toNat) : Memory.read (crypted file' s').outBuf a = Memory.read s.inBuf a := by
  have hb : a / 16 < s.len.toNat / 16 := by omega
  have hcopied : Memory.readBlock s'.inBuf (16 * (a / 16)) = Memory.readBlock (crypted file s).outBuf (16 * (a / 16)) :=
    Memory.readBlock_congr fun k hk => hinput _ (by omega)
  have hblock : Memory.readBlock (crypted file' s').outBuf (16 * (a / 16)) =
      Memory.readBlock s.inBuf (16 * (a / 16)) := by
    rw [readBlock_crypted file' hw' (hlen ▸ hb), hcopied, readBlock_crypted file hw hb, hrounds, hundo]
  have hbyte := congrArg (byteOf · (a % 16)) hblock
  simpa only [Memory.byteOf_readBlock _ _ (Nat.mod_lt a (by decide : 0 < 16)), Nat.div_add_mod] using hbyte

/-- Settles O47: the second command finds the same accepted length, and its blocks are `Crypt` of `Crypt` of those of
the original input. -/
theorem commandsRoundTrip : Obligations.CommandsRoundTrip := by
  intro ij hij s t input hs hv h herr hinput
  obtain ⟨⟨-, hw⟩, -, hkeys⟩ := hs
  obtain ⟨file, file', hf, hf', hundo⟩ := crypt_crypt_of_cryptFiles hij (decryptionInv_of_instanceInv hkeys) hv
  obtain ⟨-, hl, rfl⟩ := hf.crypted_of_err_zero h herr
  have hfile : file' { crypted (file s) s with inBuf := input } = file' s := hf'.congr rfl rfl
  obtain ⟨-, -, h16⟩ := lengthAccepted_iff.1 hl
  refine ⟨_, (CommandResult.blocksWritten (s := { crypted (file s) s with inBuf := input }) hf' hv hl).exec_eq, rfl,
    fun a ha => ?_⟩
  rw [← hfile] at hundo
  exact read_crypted_of_crypted (s' := { crypted (file s) s with inBuf := input }) hw (wf_crypted _ hw) rfl rfl h16
    hundo hinput ha

/-! ## The driver's steps -/

section
variable (input out : Memory) (file : KeyFile) (r n : Nat)

/-- The transient state before step `j` of block `i` (R160). -/
def iterAt (i j : Nat) : IterState :=
  ⟨i, j, afterRounds file (Memory.readBlock input (16 * i)) j, cryptBlocks input file r out i⟩

/-- The blocks start at step 0 of block 0 (R160). -/
theorem iterStart_eq_iterAt : iterStart input out = iterAt input out file r 0 0 := rfl

/-- A step before the last of a block is a full round (R160). -/
theorem iterStep_round {i j : Nat} (hi : i < n) (hj : j + 2 ≤ r) :
    iterStep input file r n (iterAt input out file r i j) = iterAt input out file r i (j + 1) := by
  have hblock : ¬ (iterAt input out file r i j).i = n := hi.ne
  have hround : (iterAt input out file r i j).j + 2 ≤ r := hj
  rw [iterStep, if_neg hblock, if_pos hround]
  rfl

/-- The last step of a block is the final round, and writes the block (R160). -/
theorem iterStep_final {i : Nat} (hi : i < n) (hr : 2 ≤ r) :
    iterStep input file r n (iterAt input out file r i (r - 1)) = iterAt input out file r (i + 1) 0 := by
  have hblock : ¬ (iterAt input out file r i (r - 1)).i = n := hi.ne
  have hround : ¬ (iterAt input out file r i (r - 1)).j + 2 ≤ r := show ¬ r - 1 + 2 ≤ r by omega
  rw [iterStep, if_neg hblock, if_neg hround]
  rfl

/-- The last of `k + 1` steps. -/
theorem iterRun_succ (k : Nat) (t : IterState) :
    iterRun input file r n (k + 1) t = iterStep input file r n (iterRun input file r n k t) := by
  induction k generalizing t with
  | zero => rfl
  | succ k ih => exact ih (iterStep input file r n t)

/-- Within a block the steps from its first are its rounds. -/
theorem iterRun_within_block {i j : Nat} (hi : i < n) (hj : j < r)
    (h : iterRun input file r n (i * r) (iterStart input out) = iterAt input out file r i 0) :
    iterRun input file r n (i * r + j) (iterStart input out) = iterAt input out file r i j := by
  induction j with
  | zero => exact h
  | succ j ih => rw [← Nat.add_assoc, iterRun_succ, ih (by omega), iterStep_round _ _ _ _ _ hi (by omega)]

/-- After `i * r` steps the first `i` blocks are written (R160). -/
theorem iterRun_blocks {i : Nat} (hi : i ≤ n) (hr : 2 ≤ r) :
    iterRun input file r n (i * r) (iterStart input out) = iterAt input out file r i 0 := by
  induction i with
  | zero => rw [Nat.zero_mul, iterRun, iterStart_eq_iterAt input out file r]
  | succ i ih =>
    rw [show (i + 1) * r = i * r + (r - 1) + 1 by rw [Nat.succ_mul]; omega, iterRun_succ,
      iterRun_within_block _ _ _ _ _ hi (by omega) (ih (by omega)), iterStep_final _ _ _ _ _ hi hr]

/-- Before `n * r` steps a block is still being worked on (R160). -/
theorem iterRun_index_lt {k : Nat} (hk : k < n * r) (hr : 2 ≤ r) :
    (iterRun input file r n k (iterStart input out)).i < n := by
  have hi : k / r < n := (Nat.div_lt_iff_lt_mul (by omega)).2 hk
  have hrun : iterRun input file r n (k / r * r + k % r) (iterStart input out) =
      iterAt input out file r (k / r) (k % r) :=
    iterRun_within_block _ _ _ _ _ hi (Nat.mod_lt k (by omega)) (iterRun_blocks _ _ _ _ _ hi.le hr)
  rw [Nat.div_add_mod'] at hrun
  rw [hrun]
  exact hi

end

/-- The command writes the `OUT` of the composed steps (R160). -/
theorem exec_eq_iterRun {i : Instr} {keys : State → KeyFile} (hf : CryptFile i keys) {s : State} (hv : s.valid = true)
    (hl : lengthAccepted s.len.toNat s.kLen.toNat = true) (hr : 2 ≤ s.rounds.toNat) :
    exec i s = .next { s with
      err := 0
      outBuf := (iterRun s.inBuf (keys s) s.rounds.toNat (s.len.toNat / 16) (s.len.toNat / 16 * s.rounds.toNat)
        (iterStart s.inBuf s.outBuf)).out } := by
  rw [(CommandResult.blocksWritten hf hv hl).exec_eq, iterRun_blocks _ _ _ _ _ le_rfl hr]
  rfl

/-- Settles O48: the state after every number of steps is known, block by block and round by round; the round count of
an installed key is at least 2. -/
theorem driverStepsComposeToCommand : Obligations.DriverStepsComposeToCommand := by
  refine ⟨fun input out file r n hr => ⟨?index, ?out, fun k hk => iterRun_index_lt _ _ _ _ _ hk hr⟩,
    fun s hs hv hl => ?_⟩
  case index => rw [iterRun_blocks _ _ _ _ _ le_rfl hr]; rfl
  case out => rw [iterRun_blocks _ _ _ _ _ le_rfl hr]; rfl
  obtain ⟨-, -, hkeys⟩ := hs
  obtain ⟨-, -, hr⟩ := mirrors_of_instanceInv hkeys hv
  exact ⟨exec_eq_iterRun .encrypt hv hl hr, exec_eq_iterRun .decrypt hv hl hr⟩

end Sys2Proof.Machine
end

section
/-! Rotations of words of any width: how they compose, and the number they give (spec/46_rotation_xor.md R171). -/

namespace Sys2Proof.Machine

/-- The two parts of R171's number, one shifted left and one shifted right, do not overlap. -/
theorem shifted_parts_add (u : Nat) {v m w : Nat} (hv : v < 2 ^ w) (hm : m ≤ w) :
    u * 2 ^ m % 2 ^ w + v / 2 ^ (w - m) = u <<< m % 2 ^ w ||| v >>> (w - m) := by
  have hpow : 2 ^ w = 2 ^ m * 2 ^ (w - m) := by rw [← pow_add, Nat.add_sub_cancel' hm]
  have hleft : u * 2 ^ m % 2 ^ w = 2 ^ m * (u % 2 ^ (w - m)) := by rw [hpow, Nat.mul_comm u, Nat.mul_mod_mul_left]
  have hright : v / 2 ^ (w - m) < 2 ^ m := Nat.div_lt_of_lt_mul (by rwa [Nat.mul_comm, ← hpow])
  rw [Nat.shiftLeft_eq, Nat.shiftRight_eq_div_pow, hleft, Nat.two_pow_add_eq_or_of_lt hright]

section
variable {w : Nat}

/-- The number of a left rotation (R171). -/
theorem toNat_rotateLeft_eq (x : BitVec w) (hw : 0 < w) (n : Nat) :
    (x.rotateLeft n).toNat = x.toNat * 2 ^ (n % w) % 2 ^ w + x.toNat / 2 ^ (w - n % w) := by
  rw [BitVec.toNat_rotateLeft, shifted_parts_add _ x.isLt (Nat.mod_lt n hw).le]

/-- Rotations add (R173). -/
theorem rotateLeft_rotateLeft (x : BitVec w) (a b : Nat) : (x.rotateLeft a).rotateLeft b = x.rotateLeft (a + b) := by
  refine BitVec.eq_of_getMsbD_eq fun i hi => ?_
  have hlt : (b + i) % w < w := Nat.mod_lt _ (by omega)
  simp only [BitVec.getMsbD_rotateLeft, hi, hlt, decide_true, Bool.true_and, Nat.add_mod_mod, Nat.add_assoc]

/-- A rotation by whole turns is the identity (R173). -/
theorem rotateLeft_of_mod_eq_zero (x : BitVec w) {n : Nat} (h : n % w = 0) : x.rotateLeft n = x := by
  refine BitVec.eq_of_getMsbD_eq fun i hi => ?_
  have hturn : (n + i) % w = i := by rw [Nat.add_mod, h, Nat.zero_add, Nat.mod_mod, Nat.mod_eq_of_lt hi]
  rw [BitVec.getMsbD_rotateLeft, hturn, decide_eq_true hi, Bool.true_and]

/-- Rotation distributes over XOR (R173). -/
theorem rotateLeft_xor (x y : BitVec w) (n : Nat) : (x ^^^ y).rotateLeft n = x.rotateLeft n ^^^ y.rotateLeft n := by
  refine BitVec.eq_of_getMsbD_eq fun i hi => ?_
  simp only [BitVec.getMsbD_xor, BitVec.getMsbD_rotateLeft, hi, decide_true, Bool.true_and]

/-- A rotation keeps the zero word (R173). -/
theorem zero_rotateLeft (n : Nat) : (0#w).rotateLeft n = 0#w := by
  refine BitVec.eq_of_getMsbD_eq fun i hi => ?_
  rw [BitVec.getMsbD_rotateLeft, BitVec.getMsbD_zero, BitVec.getMsbD_zero, Bool.and_false]

/-- A turn by `n` and one by what R172 subtracts are whole turns together. -/
theorem add_complement_mod (hw : 0 < w) (n : Nat) : (n + (w - n % w) % w) % w = 0 := by
  have hsum : n % w + (w - n % w) = w := Nat.add_sub_cancel' (Nat.mod_lt n hw).le
  rw [Nat.add_mod_mod, ← Nat.mod_add_mod, hsum, Nat.mod_self]

end

end Sys2Proof.Machine
end

section
/-! Byte strings as words: a string of length `L` is the string of a word of `8L` bits, and the string units are the
rotations and the XOR of words, with the obligations O23 to O28 (spec/00_scope.md R8, spec/20_memory.md R50,
spec/46_rotation_xor.md R170 to R173). -/

namespace Sys2Proof.Machine

/-! ## Strings and numbers -/

/-- Eight bits make a digit in base 256. -/
theorem two_pow_eight_mul (k : Nat) : 2 ^ (8 * k) = 256 ^ k := pow_mul 2 8 k

theorem intOf_append_singleton (x : List Byte) (b : Byte) : intOf (x ++ [b]) = intOf x * 256 + b.toNat :=
  List.foldl_append

/-- The number of a string has a digit in base 256 per byte. -/
theorem intOf_lt (x : List Byte) : intOf x < 256 ^ x.length := by
  induction x using List.reverseRecOn with
  | nil => decide
  | append_singleton x b ih =>
    have hb := b.isLt
    rw [intOf_append_singleton, List.length_append, List.length_singleton, pow_succ]
    omega

/-- The last byte of the string of a number is its last digit. -/
theorem stringOfInt_succ (n v : Nat) : stringOfInt (n + 1) v = stringOfInt n (v / 256) ++ [BitVec.ofNat 8 v] := by
  rw [stringOfInt, List.range_succ, List.map_append, List.map_singleton, stringOfInt]
  congr 1
  · refine List.map_congr_left fun i hi => ?_
    have hdigit : n + 1 - 1 - i = n - 1 - i + 1 := by
      have := List.mem_range.1 hi
      omega
    rw [hdigit, pow_succ', Nat.div_div_eq_div_mul]
  · rw [Nat.add_sub_cancel, Nat.sub_self, pow_zero, Nat.div_one]

/-- A string is the string of its number. -/
theorem stringOfInt_intOf (x : List Byte) : stringOfInt x.length (intOf x) = x := by
  induction x using List.reverseRecOn with
  | nil => rfl
  | append_singleton x b ih =>
    have hb := b.isLt
    have hfirst : intOf (x ++ [b]) / 256 = intOf x := by
      rw [intOf_append_singleton]
      omega
    have hlast : BitVec.ofNat 8 (intOf (x ++ [b])) = b := by
      refine BitVec.eq_of_toNat_eq ?_
      rw [BitVec.toNat_ofNat, intOf_append_singleton]
      omega
    rw [List.length_append, List.length_singleton, stringOfInt_succ, hfirst, hlast, ih]

/-- A number is the number of its string, which has a byte for each of its digits. -/
theorem intOf_stringOfInt {n v : Nat} (h : v < 256 ^ n) : intOf (stringOfInt n v) = v := by
  induction n generalizing v with
  | zero =>
    obtain rfl : v = 0 := by simpa using h
    rfl
  | succ n ih =>
    have hfirst : v / 256 < 256 ^ n := Nat.div_lt_of_lt_mul (by rwa [← pow_succ'])
    rw [stringOfInt_succ, intOf_append_singleton, ih hfirst, BitVec.toNat_ofNat]
    omega

/-! ## Strings and words -/

/-- The string of a word of `8L` bits, its most significant byte leftmost (R8). For `L = 16` it is `stringOf`. -/
def stringOfWord (L : Nat) (w : BitVec (8 * L)) : List Byte :=
  (List.range L).map fun i => w.extractLsb' (8 * (L - 1 - i)) 8

/-- The string of a block is that of its number. -/
theorem stringOf_eq_stringOfWord (x : Block) : stringOf x = stringOfWord 16 x := rfl

section
variable {L : Nat} (v w : BitVec (8 * L))

@[simp] theorem length_stringOfWord : (stringOfWord L w).length = L := by simp [stringOfWord]

theorem getD_stringOfWord {i : Nat} (hi : i < L) :
    (stringOfWord L w).getD i 0 = w.extractLsb' (8 * (L - 1 - i)) 8 := by
  simp [stringOfWord, hi]

/-- The digits of a word in base 256 are its bytes. -/
theorem stringOfInt_toNat : stringOfInt L w.toNat = stringOfWord L w := by
  refine List.map_congr_left fun i _ => BitVec.eq_of_toNat_eq ?_
  rw [BitVec.toNat_ofNat, BitVec.extractLsb'_toNat, Nat.shiftRight_eq_div_pow, two_pow_eight_mul]

/-- The number of a word's string is the word's (R8). -/
theorem intOf_stringOfWord : intOf (stringOfWord L w) = w.toNat := by
  have hlt : w.toNat < 256 ^ L := by
    have := w.isLt
    rwa [two_pow_eight_mul] at this
  rw [← stringOfInt_toNat, intOf_stringOfInt hlt]

/-- Bit `j` of byte `i` of a word's string, from the left, is the word's bit `8i + j` (R8). -/
theorem getMsbD_getD_stringOfWord {i j : Nat} (hi : i < L) (hj : j < 8) :
    ((stringOfWord L w).getD i 0).getMsbD j = w.getMsbD (8 * i + j) := by
  have hfits : 8 * (L - 1 - i) + 8 - j ≤ 8 * L := by omega
  have hbit : 8 * L - (8 * (L - 1 - i) + 8 - j) = 8 * i + j := by omega
  rw [getD_stringOfWord w hi, BitVec.getMsbD_extractLsb', decide_eq_true hj, decide_eq_true hfits, hbit, Bool.true_and,
    Bool.true_and]

/-- The left rotation of a word's string is the string of the rotated word (R171). -/
theorem rolString_stringOfWord (hL : 0 < L) (n : Nat) :
    rolString (stringOfWord L w) n = some (stringOfWord L (w.rotateLeft n)) := by
  have hnumber := toNat_rotateLeft_eq w (by omega) n
  rw [rolString, length_stringOfWord, if_neg hL.ne', intOf_stringOfWord, ← stringOfInt_toNat, hnumber]

/-- The right rotation of a word's string (R172). -/
theorem rorString_stringOfWord (hL : 0 < L) (n : Nat) :
    rorString (stringOfWord L w) n = some (stringOfWord L (w.rotateLeft ((8 * L - n % (8 * L)) % (8 * L)))) := by
  rw [rorString, length_stringOfWord, rolString_stringOfWord w hL]

/-- The XOR of the strings of two words is the string of their XOR (R170). -/
theorem xorString_stringOfWord :
    xorString (stringOfWord L v) (stringOfWord L w) = some (stringOfWord L (v ^^^ w)) := by
  rw [xorString, length_stringOfWord, length_stringOfWord, if_pos le_rfl]
  refine congrArg some (List.map_congr_left fun i hi => ?_)
  have hi := List.mem_range.1 hi
  rw [getD_stringOfWord v hi, getD_stringOfWord w hi, BitVec.extractLsb'_xor]

end

/-- Every string is that of a word. -/
theorem exists_stringOfWord {x : List Byte} {L : Nat} (h : x.length = L) :
    ∃ w : BitVec (8 * L), stringOfWord L w = x := by
  subst h
  have hlt : intOf x < 2 ^ (8 * x.length) := by
    rw [two_pow_eight_mul]
    exact intOf_lt x
  exact ⟨BitVec.ofNat _ (intOf x), by
    rw [← stringOfInt_toNat, BitVec.toNat_ofNat, Nat.mod_eq_of_lt hlt, stringOfInt_intOf]⟩

/-- The string of zero bytes is that of the zero word. -/
theorem stringOfWord_zero (L : Nat) : stringOfWord L 0 = List.replicate L 0 := by
  refine List.ext_getElem (by simp) fun i hi _ => ?_
  simp [stringOfWord]

/-! ## Byte and bit order -/

/-- Settles O23: the block of memory is byte by byte, a byte is a digit of the number, and the string is that of the
word. -/
theorem blocksLieLeftmostByteFirst : Obligations.BlocksLieLeftmostByteFirst := by
  refine ⟨fun m a k hk => Memory.byteOf_readBlock m a hk, fun x k _ => ?digit, fun x p hp => bitAt_eq_getLsbD x hp,
    fun x => (congrArg intOf (stringOf_eq_stringOfWord x)).trans (intOf_stringOfWord (L := 16) x)⟩
  case digit => rw [byteOf, BitVec.extractLsb'_toNat, Nat.shiftRight_eq_div_pow, two_pow_eight_mul]

/-- Bit position `p` of R8 counts the bits of the number from the left. -/
theorem bitAt_eq_getMsbD (x : Block) {p : Nat} (hp : p < 128) : bitAt x p = x.getMsbD p := by
  rw [bitAt_eq_getLsbD x hp, BitVec.getMsbD_eq_getLsbD, decide_eq_true hp, Bool.true_and]

/-- Where a left rotation takes each bit position from (R171). -/
theorem bitAt_rol (x : Block) (n : Nat) {p : Nat} (hp : p < 128) : bitAt (rol x n) p = bitAt x ((p + n) % 128) := by
  rw [bitAt_eq_getMsbD _ hp, bitAt_eq_getMsbD _ (Nat.mod_lt _ (by decide)), rol, BitVec.getMsbD_rotateLeft,
    decide_eq_true hp, Bool.true_and, Nat.add_comm n p]

/-- Settles O24: a right rotation is the left one by the complement. -/
theorem rotationMovesBitPositions : Obligations.RotationMovesBitPositions := by
  intro x n p hp
  refine ⟨?left, ?right, toNat_rotateLeft_eq x (by decide) n⟩
  case left => rw [bitAt_rol x n hp, Nat.add_mod_mod]
  case right => rw [ror, bitAt_rol x _ hp, Nat.add_mod_mod]

/-- Settles O27: a block is a word of sixteen bytes. -/
theorem blockUnitsAgreeWithStringUnits : Obligations.BlockUnitsAgreeWithStringUnits :=
  ⟨fun x n => ⟨rolString_stringOfWord (L := 16) x (by decide) n, rorString_stringOfWord (L := 16) x (by decide) n⟩,
    fun x y => xorString_stringOfWord (L := 16) x y⟩

/-! ## The string units -/

/-- A bit of a rotated byte comes from one of two bytes (R171). -/
theorem getMsbD_shifted_bytes (a b : Byte) {s j : Nat} (hs : s < 8) (hj : j < 8) :
    (a <<< s ||| b >>> (8 - s)).getMsbD j = if s + j < 8 then a.getMsbD (s + j) else b.getMsbD (s + j - 8) := by
  rw [BitVec.getMsbD_or, BitVec.getMsbD_shiftLeft, BitVec.getMsbD_ushiftRight, decide_eq_true hj, Nat.add_comm j s]
  by_cases h : s + j < 8
  · rw [if_pos h, decide_eq_true (show j < 8 - s by omega)]
    simp
  · rw [if_neg h, decide_eq_false (show ¬ j < 8 - s by omega), BitVec.getMsbD_of_ge a _ (by omega),
      show j - (8 - s) = s + j - 8 by omega]
    simp

/-- R171's byte formula is the byte whose high bits are of one byte and whose low bits are of the next. -/
theorem rolByte_eq_toNat (x : List Byte) (n i : Nat) :
    rolByte x n i =
      (x.getD ((i + n % (8 * x.length) / 8) % x.length) 0 <<< (n % (8 * x.length) % 8) |||
        x.getD ((i + n % (8 * x.length) / 8 + 1) % x.length) 0 >>> (8 - n % (8 * x.length) % 8)).toNat := by
  rw [rolByte, BitVec.toNat_or, BitVec.toNat_shiftLeft, BitVec.toNat_ushiftRight]
  exact shifted_parts_add _ (BitVec.isLt _) (Nat.mod_lt _ (by decide)).le

/-- A bit position reduced modulo the length of a string: the byte is reduced, the place in it kept. -/
theorem bit_position_mod (p L : Nat) {k : Nat} (hk : k < 8) : (8 * p + k) % (8 * L) = 8 * (p % L) + k := by
  rw [Nat.mod_mul, show (8 * p + k) % 8 = k by omega, show (8 * p + k) / 8 = p by omega, Nat.add_comm]

/-- Byte `i` of a rotated string, bit by bit (R171). -/
theorem getMsbD_getD_rotated {L : Nat} (w : BitVec (8 * L)) (n : Nat) {i j : Nat} (hi : i < L) (hj : j < 8) :
    ((stringOfWord L (w.rotateLeft n)).getD i 0).getMsbD j =
      if n % (8 * L) % 8 + j < 8 then
        ((stringOfWord L w).getD ((i + n % (8 * L) / 8) % L) 0).getMsbD (n % (8 * L) % 8 + j)
      else ((stringOfWord L w).getD ((i + n % (8 * L) / 8 + 1) % L) 0).getMsbD (n % (8 * L) % 8 + j - 8) := by
  have hL : 0 < L := by omega
  rw [getMsbD_getD_stringOfWord _ hi hj, ← BitVec.rotateLeft_mod_eq_rotateLeft, BitVec.getMsbD_rotateLeft,
    decide_eq_true (show 8 * i + j < 8 * L by omega), Bool.true_and]
  generalize n % (8 * L) = m
  split
  · next h =>
    rw [getMsbD_getD_stringOfWord _ (Nat.mod_lt _ hL) h, ← bit_position_mod _ _ h]
    congr 2
    omega
  · next h =>
    have hlow : m % 8 + j - 8 < 8 := by omega
    rw [getMsbD_getD_stringOfWord _ (Nat.mod_lt _ hL) hlow, ← bit_position_mod _ _ hlow]
    congr 2
    omega

/-- Settles O25: the byte of the rotated word and the byte of the formula have the same bits. -/
theorem stringRotationBytewise : Obligations.StringRotationBytewise := by
  intro x n hx
  obtain ⟨w, hw⟩ := exists_stringOfWord (x := x) rfl
  have hL : 0 < x.length := List.length_pos_of_ne_nil hx
  refine ⟨stringOfWord x.length (w.rotateLeft n), ?rotated, length_stringOfWord _, fun i hi => ?byte⟩
  case rotated => rw [← rolString_stringOfWord w hL, hw]
  case byte =>
    rw [rolByte_eq_toNat]
    refine congrArg BitVec.toNat (BitVec.eq_of_getMsbD_eq fun j hj => ?_)
    rw [getMsbD_getD_rotated w n hi hj, getMsbD_shifted_bytes _ _ (Nat.mod_lt _ (by decide)) hj, hw]

/-- Settles O26: the identities are those of words of the string's length. -/
theorem rotationIdentities : Obligations.RotationIdentities := by
  intro x hx
  have hL : 0 < x.length := List.length_pos_of_ne_nil hx
  generalize hlen : x.length = L at hL ⊢
  obtain ⟨w, rfl⟩ := exists_stringOfWord hlen
  simp only [rolString_stringOfWord _ hL, rorString_stringOfWord _ hL, Option.bind_some, rotateLeft_rotateLeft,
    Option.some.injEq]
  refine ⟨?zero, ?turn, fun n => ?rorRol, fun n => ?rolRor, fun a b => trivial, fun y n hy => ?xor, fun n => ?zeros,
    fun n => rfl⟩
  case zero => rw [rotateLeft_of_mod_eq_zero w (Nat.zero_mod _)]
  case turn => rw [rotateLeft_of_mod_eq_zero w (Nat.mod_self _)]
  case rorRol => rw [rotateLeft_of_mod_eq_zero w (add_complement_mod (by omega) n)]
  case rolRor => rw [rotateLeft_of_mod_eq_zero w (by rw [Nat.add_comm]; exact add_complement_mod (by omega) n)]
  case xor =>
    obtain ⟨v, rfl⟩ := exists_stringOfWord hy
    refine ⟨_, _, _, xorString_stringOfWord w v, rfl, rolString_stringOfWord v hL n, ?_⟩
    rw [rolString_stringOfWord _ hL, xorString_stringOfWord, rotateLeft_xor]
  case zeros => rw [← stringOfWord_zero, rolString_stringOfWord _ hL, BitVec.ofNat_eq_ofNat, zero_rotateLeft]

/-- A byte beyond a string reads as 0, which the XOR copies over (R170). -/
theorem getD_of_length_le {x : List Byte} {i : Nat} (h : x.length ≤ i) : x.getD i 0 = 0 := by
  rw [List.getD_eq_getElem?_getD, List.getElem?_eq_none h, Option.getD_none]

/-- Every byte of the XOR of two strings is the XOR of their bytes (R170). -/
theorem getD_map_range_xor {x y : List Byte} (h : y.length ≤ x.length) (i : Nat) :
    ((List.range x.length).map fun i => x.getD i 0 ^^^ y.getD i 0).getD i 0 = x.getD i 0 ^^^ y.getD i 0 := by
  by_cases hi : i < x.length
  · simp [hi]
  · rw [getD_of_length_le (x := x) (by omega), getD_of_length_le (x := y) (by omega),
      getD_of_length_le (by simpa using hi)]
    rfl

/-- Settles O28: beyond the shorter operand the XOR is with 0. -/
theorem stringXorCopiesBeyondShorterOperand : Obligations.StringXorCopiesBeyondShorterOperand := by
  refine ⟨fun x y h => ⟨_, if_pos h, by simp, fun i _ => getD_map_range_xor h i, fun i hi => ?_⟩,
    fun x y h => if_neg (by omega)⟩
  rw [getD_map_range_xor h, getD_of_length_le hi]
  exact BitVec.xor_zero

end Sys2Proof.Machine
end
